-- ==== Sys2Proof/Word.lean ====
section
/-! DEFINITION. The widths of the block's data (00_scope.md R4): bytes, 16-bit addresses, and the IO word of any width. -/

namespace Sys2Proof

/-- A memory datum (R4: `BYTE_W` = 8). -/
abbrev Byte := BitVec 8

/-- A memory or port address (R4: `ADDR_W` = `IO_ADDR_W` = 16). The two spaces are kept apart by the operations (R30). -/
abbrev Addr := BitVec 16

/-- A port datum, the document's "word": `IO_W` bits, the width a parameter of the hardware (R4, R24, 92 D2), so that a word brings its
width with it. -/
structure IoWord where
  /-- The word's width, `IO_W` of the port it is on. -/
  width : Nat
  /-- Its bits. -/
  bits : BitVec width
  deriving DecidableEq, Repr

/-- The lines of the port bus, `io_we ++ io_addr ++ io_wdata` (R53): `17 + IO_W` bits. -/
structure IobusWord where
  /-- `IO_W` of the port. -/
  ioW : Nat
  /-- The concatenation. -/
  bits : BitVec (17 + ioW)
  deriving DecidableEq, Repr

/-- `IO_READ_VALUE` (R80): the intentional constant every port read returns, all `IO_W` bits zero. -/
def ioReadValue (ioW : Nat) : IoWord := { width := ioW, bits := 0#ioW }

/-- `UNMAPPED_READ`: the intentional constant an unmapped address reads as (R70). -/
def unmappedRead : Byte := 0#8

end Sys2Proof
end

