-- ==== Sys2Proof/Config.lean ====
section
/-! DEFINITION. What is fixed for one instance of the block: the geometry (00_scope.md R5), the configuration (R6, R57), and the
CPU-core collaborator, a black box of one state and five functions (10_state.md R16). The geometry of the reset machine and the
whole core are free values: constants with no body, so that no proof can see what they are. -/

namespace Sys2Proof

/-- Sizes and position of the two regions (R5). Plain numbers; `Geometry.Legal` is the constraint. -/
structure Geometry where
  /-- `PROG_CAP`, bytes of the Program region. -/
  progCap : Nat
  /-- `WORK_BASE`, first address of the Working window. -/
  workBase : Nat
  /-- `WORK_SIZE`, bytes of the Working region. -/
  workSize : Nat
  deriving DecidableEq, Repr

/-- The document's constraints on the geometry as R5 writes them. -/
abbrev Geometry.Legal (g : Geometry) : Prop :=
  g.progCap ≤ g.workBase ∧ g.workBase + g.workSize ≤ 0xFFFF

/-- A geometry together with the proof that R5 admits it. -/
structure LegalGeometry where
  progCap : Nat := 0
  workBase : Nat := 0
  workSize : Nat := 0
  disjoint : progCap ≤ workBase := by omega
  below_top : workBase + workSize ≤ 0xFFFF := by omega
  deriving Inhabited

/-- The plain numbers of a legal geometry. -/
def LegalGeometry.toGeometry (g : LegalGeometry) : Geometry :=
  { progCap := g.progCap, workBase := g.workBase, workSize := g.workSize }

/-- `CFG` as the block holds it (R6, R20, R57). -/
structure Cfg where
  /-- `CFG.debug`. -/
  debug : Bool
  /-- `CFG.interval`: true is paced, false free-running. -/
  interval : Bool
  /-- `CFG.clockSpeed`, milliseconds, `CLK_W` = 32 bits (R57, D24). -/
  clockSpeed : BitVec 32
  deriving DecidableEq, Repr

/-- The defaults of R6. -/
def Cfg.default : Cfg := { debug := false, interval := true, clockSpeed := 10 }

/-- Legal values of `CFG.clockSpeed` (R20): at least 1. -/
abbrev Cfg.Legal (c : Cfg) : Prop := 1 ≤ c.clockSpeed.toNat

/-- The configuration as construction receives it: every field may be omitted (R57), and the period is any integer (R6). -/
structure CfgInput where
  debug : Option Bool
  interval : Option Bool
  clockSpeed : Option Int
  deriving DecidableEq, Repr

/-- `K`, the core's state as the block sees it (R16): the halted flag, which the block shares (R17), and all the rest, which it
never reads. The rest is one number, a code of whatever the core holds. Log 3. -/
structure CoreState where
  /-- Everything but the halted flag. -/
  image : Nat
  /-- `K.halted`. -/
  halted : Bool
  deriving DecidableEq, Repr, Inhabited

/-- `Text`, what disassembly returns, and `Info`, what a fault carries. Opaque to the block (R51, U7). -/
abbrev Text := String

/-- What `CoreExecute` reports (R16). -/
inductive Status where
  | ok
  | fault (info : Text)
  deriving DecidableEq, Repr, Inhabited

/-- What one `CoreExecute` leaves: the rest of `K`, whether the core set its own halted flag, and the status. It has no way to
clear the flag: "Set to false by: `CoreReset` only" (R17). Log 4. -/
structure CoreResult where
  image : Nat
  setsHalted : Bool
  status : Status
  deriving DecidableEq, Repr, Inhabited

/-- `Bus X` (R16): any finite sequence of bus operations, each answered before the next is issued, and then an `X`. -/
inductive BusProg (α : Type) where
  | done (a : α)
  | memRead (addr : Addr) (next : Byte → BusProg α)
  | memWrite (addr : Addr) (value : Byte) (next : BusProg α)
  | ioRead (port : Addr) (next : IoWord → BusProg α)
  | ioWrite (port : Addr) (value : IoWord) (next : BusProg α)
  deriving Inhabited

/-- `Bus X` for a computation that issues MEM.READs only: what premise (b) of R16 leaves `CoreDisasm`, and what R93 allows
`CoreReset` ("if `CoreReset` reads memory"). -/
inductive ReadProg (α : Type) where
  | done (a : α)
  | memRead (addr : Addr) (next : Byte → ReadProg α)
  deriving Inhabited

/-- The `Core` parameter (R16). Premises (a), (b), (c) and D31 hold by the types: `reset` yields no halted flag, so
`CoreReset` clears it; `disasm` and `reset` can only read; all programs are finite trees of bus operations. Log 4, log 5. -/
structure CoreFns where
  /-- `CoreInit`; the core is constructed with `CFG.debug` (R20, R150). -/
  init : Bool → CoreState
  /-- `CoreReset`, but for the halted flag, which it clears. -/
  reset : CoreState → ReadProg Nat
  /-- `CoreExecute`. -/
  execute : CoreState → BusProg CoreResult
  /-- `CoreDisasm`. -/
  disasm : CoreState → ReadProg Text
  /-- `IsNop`. -/
  isNop : Text → Bool
  deriving Inhabited

/-- `IO_W` where nothing else is said: the parameter's default (92 D2, the parameter table of 00_scope.md), and the width at which the
opcode table writes its masks. -/
def Config.ioWidth : Nat := 16

/-- FREE VALUE: the geometry of the machine that `State.reset` describes (92 D3: OPEN). Log 1. -/
opaque Config.geometry : LegalGeometry

/-- FREE VALUE: the CPU core the block surrounds (R3, U5: a parameter). Log 3. -/
opaque Config.core : CoreFns

end Sys2Proof
end

