-- ==== Sys2Proof/Syntax.lean ====
section
/-! DEFINITION. The ten operations of the block (30_encoding.md R50) and the transactions that carry them (R52 to R55). -/

namespace Sys2Proof

/-- The ten operations, one constructor per row of spec/opcode_table.json. A read has no value operand:
its `value` bits are ignored (R52, R53, R58). Log 17. -/
inductive Instr where
  /-- MEM.READ, `read <addr>` (R73). -/
  | memRead (addr : Addr)
  /-- MEM.WRITE, `write <addr>, <byte>` (R74). -/
  | memWrite (addr : Addr) (value : Byte)
  /-- IO.READ, `portRead <port>` (R82). -/
  | ioRead (port : Addr)
  /-- IO.WRITE, `portWrite <port>, <word>` (R83). -/
  | ioWrite (port : Addr) (value : IoWord)
  /-- RESET (R93). -/
  | reset
  /-- START (R94). -/
  | start
  /-- STOP (R95). -/
  | stop
  /-- CYCLE (R96). -/
  | cycle
  /-- TICK (R98). -/
  | tick
  /-- FSTEP (R99). -/
  | fstep
  deriving DecidableEq, Repr

/-- The four formats, told apart by the port a transaction arrives on and by no bit of it (R62). -/
inductive Format where
  | membus
  | iobus
  | hostcmd
  | event
  deriving DecidableEq, Repr

/-- The width in bits of a format's words, on hardware of a port width (R52 to R55). -/
def Format.width (ioW : Nat) : Format → Nat
  | .membus => 25
  | .iobus => 17 + ioW
  | .hostcmd => 2
  | .event => 1

/-- A word on one of the four ports. -/
inductive Transaction where
  /-- `m_we ++ m_addr ++ m_wdata` (R52). -/
  | membus (w : BitVec 25)
  /-- `io_we ++ io_addr ++ io_wdata` (R53). -/
  | iobus (w : IobusWord)
  /-- `cmd` (R54). -/
  | hostcmd (w : BitVec 2)
  /-- The event tag (R55). -/
  | event (w : BitVec 1)
  deriving DecidableEq, Repr

/-- The port a transaction is on. -/
def Transaction.format : Transaction → Format
  | .membus _ => .membus
  | .iobus _ => .iobus
  | .hostcmd _ => .hostcmd
  | .event _ => .event

/-- A transaction stands on the ports of hardware of a port width: an IOBUS word has exactly that port's lines (R53). -/
def Transaction.onPorts (ioW : Nat) : Transaction → Bool
  | .membus _ => true
  | .iobus w => decide (w.ioW = ioW)
  | .hostcmd _ => true
  | .event _ => true

/-- A transaction's bits as one number, bit 0 the least significant (R8). -/
def Transaction.bits : Transaction → Nat
  | .membus w => w.toNat
  | .iobus w => w.bits.toNat
  | .hostcmd w => w.toNat
  | .event w => w.toNat

end Sys2Proof
end

