-- ==== Sys2Proof/WellFormed.lean ====
section
/-! DEFINITION. The checks on what comes from outside: an operation, a raw word on a port, and the three construction inputs. -/

namespace Sys2Proof

/-- The operands have exactly the field widths of R52 and R53: by their types, but for the word of an IO.WRITE, whose width must be
the `IO_W` of the hardware. Nothing else is illegal (R58). One arm per constructor, so that a new one must be judged. -/
def Instr.wellFormed (ioW : Nat) : Instr → Bool
  | .memRead _ => true
  | .memWrite _ _ => true
  | .ioRead _ => true
  | .ioWrite _ v => decide (v.width = ioW)
  | .reset => true
  | .start => true
  | .stop => true
  | .cycle => true
  | .tick => true
  | .fstep => true

/-- A number is a word of a format when it has no bit above the format's width (R52 to R55). -/
def Format.wordFits (ioW : Nat) (f : Format) (w : Nat) : Bool := decide (w < 2 ^ f.width ioW)

/-- The geometry is one R5 admits. -/
def Geometry.wellFormed (g : Geometry) : Bool := decide g.Legal

/-- The firmware is no longer than the Program region (R121, R150). -/
def firmwareFits (g : Geometry) (fw : List Byte) : Bool := decide (fw.length ≤ g.progCap)

/-- A requested period is at least 1 ms (R20, D24) and has at most `CLK_W` = 32 bits (R57). An omitted one is the default. -/
def CfgInput.periodLegal (c : CfgInput) : Bool :=
  match c.clockSpeed with
  | none => true
  | some n => decide (1 ≤ n ∧ n < 2 ^ 32)

end Sys2Proof
end

