-- ==== Sys2Proof/Decode.lean ====
section
/-! DEFINITION. Decoding and encoding of the four formats (30_encoding.md R52 to R55, R58, R62), the opcode table as data, and the
reading of a table word. -/

namespace Sys2Proof

/-- The concatenation `m_we ++ m_addr ++ m_wdata` (R52). -/
def membusWord (we : BitVec 1) (addr : Addr) (value : Byte) : BitVec 25 :=
  we ++ addr ++ value

/-- The concatenation `io_we ++ io_addr ++ io_wdata` (R53). -/
def iobusWord (we : BitVec 1) (port : Addr) (value : IoWord) : IobusWord :=
  { ioW := value.width, bits := we ++ port ++ value.bits }

/-- MEMBUS (R52): only bit 24 selects; `addr` is 23:8, `value` 7:0, ignored on a read. -/
def decodeMembus (w : BitVec 25) : Instr :=
  if w.getLsbD 24 then .memWrite (w.extractLsb' 8 16) (w.extractLsb' 0 8)
  else .memRead (w.extractLsb' 8 16)

/-- IOBUS (R53), at any port width: the top bit selects; `addr` stands above the `IO_W` value bits, which a read ignores. -/
def decodeIobus (w : IobusWord) : Instr :=
  if w.bits.getLsbD (16 + w.ioW) then
    .ioWrite (w.bits.extractLsb' w.ioW 16) { width := w.ioW, bits := w.bits.extractLsb' 0 w.ioW }
  else .ioRead (w.bits.extractLsb' w.ioW 16)

/-- HOSTCMD (R54): 00 RESET, 01 START, 10 STOP, 11 CYCLE. -/
def decodeHostcmd (w : BitVec 2) : Instr :=
  match w.getLsbD 1, w.getLsbD 0 with
  | false, false => .reset
  | false, true => .start
  | true, false => .stop
  | true, true => .cycle

/-- EVENT (R55): 0 TICK, 1 FSTEP. -/
def decodeEvent (w : BitVec 1) : Instr :=
  if w.getLsbD 0 then .fstep else .tick

/-- The operation a transaction selects. Total: no pattern is illegal (R58). -/
def decode : Transaction → Instr
  | .membus w => decodeMembus w
  | .iobus w => decodeIobus w
  | .hostcmd w => decodeHostcmd w
  | .event w => decodeEvent w

/-- Why a raw number on no particular port is no transaction. -/
inductive DecodeError where
  /-- No format of R52 to R55 has this many bits, exactly or in whole bytes. -/
  | noSuchWidth (nbits : Nat)
  /-- A bit stands above the format's width, where the port has no line. -/
  | bitAboveWord (f : Format)
  deriving DecidableEq, Repr

/-- The format of a word of `nbits` bits, given exactly or rounded up to whole bytes, on hardware of a port width. HOSTCMD and EVENT
both round to 8 bits; 8 is read as HOSTCMD, since an event arrives on no port (R55). Log 16. -/
def formatOfBits (ioW nbits : Nat) : Option Format :=
  if nbits = 25 ∨ nbits = 32 then some .membus
  else if nbits = 17 + ioW ∨ nbits = (17 + ioW + 7) / 8 * 8 then some .iobus
  else if nbits = 2 ∨ nbits = 8 then some .hostcmd
  else if nbits = 1 then some .event
  else none

/-- A number as a word of a format. -/
def Format.transaction (ioW : Nat) (f : Format) (w : Nat) : Transaction :=
  match f with
  | .membus => .membus (BitVec.ofNat 25 w)
  | .iobus => .iobus { ioW := ioW, bits := BitVec.ofNat (17 + ioW) w }
  | .hostcmd => .hostcmd (BitVec.ofNat 2 w)
  | .event => .event (BitVec.ofNat 1 w)

/-- The transaction whose word is `w`, of `nbits` bits, or the reason there is none. -/
def transactionOfWord (ioW nbits w : Nat) : Except DecodeError Transaction :=
  match formatOfBits ioW nbits with
  | none => .error (.noSuchWidth nbits)
  | some f => if f.wordFits ioW w then .ok (f.transaction ioW w) else .error (.bitAboveWord f)

/-- The operation such a number stands for, on hardware of a port width. -/
def decodeWordAt (ioW nbits w : Nat) : Option Instr :=
  match transactionOfWord ioW nbits w with
  | .ok t => some (decode t)
  | .error _ => none

/-- The host's reading of an opcode-table word: the table is written for the default port width. -/
def decodeTableWord (nbits w : Nat) : Option Instr := decodeWordAt Config.ioWidth nbits w

/-- The word of an operation on hardware of a port width, with the ignored `value` bits of a read as zeros: the concatenations of R52
and R53, and the codes of R54 and R55. -/
def encode (ioW : Nat) : Instr → Transaction
  | .memRead a => .membus (membusWord 0#1 a 0#8)
  | .memWrite a v => .membus (membusWord 1#1 a v)
  | .ioRead p => .iobus (iobusWord 0#1 p { width := ioW, bits := 0#ioW })
  | .ioWrite p v => .iobus (iobusWord 1#1 p v)
  | .reset => .hostcmd 0b00#2
  | .start => .hostcmd 0b01#2
  | .stop => .hostcmd 0b10#2
  | .cycle => .hostcmd 0b11#2
  | .tick => .event 0b0#1
  | .fstep => .event 0b1#1

/-- A transaction with the bits cleared that no operation looks at: the `value` of a read (R58). -/
def Transaction.canonical : Transaction → Transaction
  | .membus w => if w.getLsbD 24 then .membus w else .membus (membusWord 0#1 (w.extractLsb' 8 16) 0#8)
  | .iobus w =>
    if w.bits.getLsbD (16 + w.ioW) then .iobus w
    else .iobus (iobusWord 0#1 (w.bits.extractLsb' w.ioW 16) { width := w.ioW, bits := 0#w.ioW })
  | .hostcmd w => .hostcmd w
  | .event w => .event w

/-- A row of the opcode table: a word of the format is this row's when its bits under `mask` are `bits`. -/
structure OpcodeRow where
  mnemonic : String
  format : Format
  mask : Nat
  bits : Nat
  deriving DecidableEq, Repr

/-- spec/opcode_table.json: mnemonic, format, mask and match of the ten rows. The IOBUS rows' one selecting bit is the top one, `we`
(R53): bit 32 at the default width, at which the table writes it. -/
def opcodeTable (ioW : Nat) : List OpcodeRow :=
  [ ⟨"MEM.READ", .membus, 0x1000000, 0x0000000⟩,
    ⟨"MEM.WRITE", .membus, 0x1000000, 0x1000000⟩,
    ⟨"IO.READ", .iobus, 2 ^ (16 + ioW), 0⟩,
    ⟨"IO.WRITE", .iobus, 2 ^ (16 + ioW), 2 ^ (16 + ioW)⟩,
    ⟨"RESET", .hostcmd, 0x3, 0x0⟩,
    ⟨"START", .hostcmd, 0x3, 0x1⟩,
    ⟨"STOP", .hostcmd, 0x3, 0x2⟩,
    ⟨"CYCLE", .hostcmd, 0x3, 0x3⟩,
    ⟨"TICK", .event, 0x1, 0x0⟩,
    ⟨"FSTEP", .event, 0x1, 0x1⟩ ]

/-- A transaction is a row's when it is on the row's port and agrees with the row under its mask. -/
def OpcodeRow.selects (r : OpcodeRow) (t : Transaction) : Bool :=
  decide (t.format = r.format) && decide (t.bits &&& r.mask = r.bits)

/-- The mnemonic of an operation, as the table spells it. -/
def Instr.mnemonic : Instr → String
  | .memRead _ => "MEM.READ"
  | .memWrite _ _ => "MEM.WRITE"
  | .ioRead _ => "IO.READ"
  | .ioWrite _ _ => "IO.WRITE"
  | .reset => "RESET"
  | .start => "START"
  | .stop => "STOP"
  | .cycle => "CYCLE"
  | .tick => "TICK"
  | .fstep => "FSTEP"

end Sys2Proof
end

