-- ==== Sys2Proof/Machine/State.lean ====
section
/-! DEFINITION. The block's state as plain data (10_state.md), the interface lines of 30_encoding.md R51 that a step reads or drives,
the reasons a machine stops, and the machine right after construction. -/

namespace Sys2Proof.Machine

/-- One backing store: (offset, byte) pairs, offsets strictly rising, no entry 0x00, which is what an unlisted offset reads as
(R12, R13: both stores are zero wherever nothing was loaded or written). -/
abbrev Memory := List Host.Cell

/-- `S`, the scheduler's state register (R15). -/
inductive Sched where
  | idle
  | runPaced
  | runFree
  | halted
  deriving DecidableEq, Repr

/-- The core functions that issue bus operations (R31): a memory or port transaction is answered only while one of them runs. -/
inductive CoreCall where
  /-- `CoreExecute`, inside `Cycle()`. -/
  | execute
  /-- `CoreDisasm`, inside an evaluation of the halt predicate or the logged disassembly of `Cycle()`. -/
  | disasm
  deriving DecidableEq, Repr

/-- A record sent to the diagnostic sink (R59). -/
inductive DiagRecord where
  /-- `Disasm(text)`. -/
  | disasm (text : Text)
  /-- `StateDump(K)`, the full CPU state. -/
  | stateDump (k : CoreState)
  /-- `IoRead(addr)`. -/
  | ioRead (port : Addr)
  /-- `IoWrite(addr, value)`. -/
  | ioWrite (port : Addr) (value : IoWord)
  /-- `Error(info)`. -/
  | error (info : Text)
  deriving DecidableEq, Repr

/-- The state. The first eight fields are the spec's (10_state.md section 9 and the construction constants of R20 and R24), the
next five the core function in progress and the input lines not yet served, the last five what the block last drove on its output
lines. -/
structure State where
  /-- `PROG_CAP`, `WORK_BASE`, `WORK_SIZE`: fixed for the hardware, written by no operation (R5, R24). -/
  geom : Geometry
  /-- `IO_W`: fixed for the hardware, written by no operation (R4, R24, 92 D2). -/
  ioW : Nat
  /-- `CFG`: fixed at construction, written by no operation (R20). -/
  cfg : Cfg
  /-- `PROG`, by offset from address 0 (R12). -/
  prog : Memory
  /-- `WORK`, by offset from `WORK_BASE` (R13). -/
  work : Memory
  /-- `S` (R15). -/
  sched : Sched
  /-- `K`, with `K.halted` (R16, R17). -/
  core : CoreState
  /-- `CV` (R18). -/
  cv : Bool
  /-- The core function requested of the core (`k_exec`, `k_disasm`) and not yet finished (`k_done`), R31, R51: none at every boundary
  a run comes to, since an operation holds its core functions whole (R102). Log 10. -/
  inCore : Option CoreCall
  /-- `m_req` with `m_we ++ m_addr ++ m_wdata` (R51, R52): a memory transaction presented and not yet served. -/
  memReq : Option (BitVec 25)
  /-- `io_req` with `io_we ++ io_addr ++ io_wdata` (R51, R53). -/
  ioReq : Option IobusWord
  /-- `cmd_valid` with `cmd` (R51, R54): at most one command is presented. -/
  cmdReq : Option (BitVec 2)
  /-- `tick`: a timer pulse raised and not yet served; pulses are not counted (R160, D27). -/
  tick : Bool
  /-- `m_rdata`: the answer to the last MEM.READ transaction served at the port (R51). -/
  mRdata : Byte
  /-- `io_rdata` (R51). -/
  ioRdata : IoWord
  /-- `cmd_ack`: the last command served has taken its whole effect (R51, R101). -/
  cmdAck : Bool
  /-- `cmd_err`: with `cmdAck`, ContractViolation was raised (R51). -/
  cmdErr : Bool
  /-- The records sent to the diagnostic sink, oldest first: an output trace that no rule reads (R24, R59). -/
  diag : List DiagRecord
  deriving DecidableEq, Repr

/-- Why there is no machine, or it stops. No operation of the ten raises one: the block's other two exceptions leave a next state
(R122, R123). -/
inductive Fault where
  /-- FirmwareTooLarge (R121): raised by `construct` when the firmware is longer than the Program region. Safe: the spec's own
  fail-fast rejection (90 C3). -/
  | firmwareTooLarge
  deriving DecidableEq, Repr

/-- What the model turns down. -/
inductive Refusal where
  /-- Raised by an arm of `exec` that has no meaning yet. No arm does. Safe. -/
  | notModelled (mnemonic : String)
  /-- Raised by `construct`: `clockSpeed` below 1 (R20, D24), or of more than 32 bits (R57, log 18). Safe. -/
  | clockSpeedOutOfRange
  /-- Raised by `construct`: a geometry that R5 does not admit (log 18). Safe. -/
  | geometryNotAdmitted
  deriving DecidableEq, Repr

/-- The machine right after construction (R150), from a geometry, a port width, a configuration and a Program region already loaded.
Nothing is presented on the input lines and nothing has been driven (log 8, log 10). -/
def State.constructed (g : Geometry) (ioW : Nat) (c : Cfg) (prog : Memory) : State :=
  { geom := g, ioW := ioW, cfg := c, prog := prog, work := [], sched := .idle, core := Config.core.init c.debug, cv := false
    inCore := none, memReq := none, ioReq := none, cmdReq := none, tick := false
    mRdata := 0#8, ioRdata := ioReadValue ioW, cmdAck := false, cmdErr := false, diag := [] }

/-- The machine right after power-on: the free geometry, the default port width (92 D2), the default configuration (R6) and no
firmware (log 6). -/
def State.reset : State :=
  State.constructed Config.geometry.toGeometry Config.ioWidth Cfg.default []

end Sys2Proof.Machine
end

