-- ==== Sys2Proof/Machine/Flags.lean ====
section
/-! DEFINITION. The derived signals, codes and output lines of the block: `running` and `timer_active` (10_state.md R19), the status
port, the timer lines and `k_debug` (30_encoding.md R51), record kinds (R59), exception codes (60_exceptions.md R120). -/

namespace Sys2Proof.Machine

/-- `running` (R19), and `Running(S)` of R8. -/
def Sched.running : Sched → Bool
  | .runPaced => true
  | .runFree => true
  | .idle => false
  | .halted => false

/-- `timer_active` (R19): the timer is armed only in RunPaced. -/
def Sched.timerActive : Sched → Bool
  | .runPaced => true
  | .runFree => false
  | .idle => false
  | .halted => false

/-- `S` on the status port (R15, D9). -/
def Sched.code : Sched → BitVec 2
  | .idle => 0b00#2
  | .runPaced => 0b01#2
  | .runFree => 0b10#2
  | .halted => 0b11#2

/-- The lines the block drives from its state at every boundary (R22, R51). -/
structure StatusLines where
  /-- `st_S`. -/
  stS : BitVec 2
  /-- `st_running`. -/
  stRunning : Bool
  /-- `st_cv`. -/
  stCv : Bool
  /-- `st_halted`. -/
  stHalted : Bool
  /-- `tmr_run`. -/
  tmrRun : Bool
  /-- `tmr_period`. -/
  tmrPeriod : BitVec 32
  /-- `k_debug`. -/
  kDebug : Bool
  deriving DecidableEq, Repr

/-- Those lines in a state. -/
def State.statusLines (s : State) : StatusLines :=
  { stS := s.sched.code, stRunning := s.sched.running, stCv := s.cv, stHalted := s.core.halted
    tmrRun := s.sched.timerActive, tmrPeriod := s.cfg.clockSpeed, kDebug := s.cfg.debug }

/-- `dg_kind` (R59). -/
def DiagRecord.kind : DiagRecord → BitVec 3
  | .disasm _ => 0
  | .stateDump _ => 1
  | .ioRead _ => 2
  | .ioWrite _ _ => 3
  | .error _ => 4

/-- Whether a record reports a failed step. -/
def DiagRecord.isError : DiagRecord → Bool
  | .error _ => true
  | .disasm _ => false
  | .stateDump _ => false
  | .ioRead _ => false
  | .ioWrite _ _ => false

/-- The exceptions an operation takes (R120 (b), (c)). Construction's, (a), is `Fault.firmwareTooLarge`. -/
inductive Exception where
  | contractViolation
  | executionFault (info : Text)
  deriving DecidableEq, Repr

/-- The code of an operation's exception, 0 where there is none (R120, D21). -/
def Exception.code : Option Exception → BitVec 2
  | none => 0
  | some .contractViolation => 2
  | some (.executionFault _) => 3

/-- The code of construction's exception (R120, D21). -/
def Fault.code : Fault → BitVec 2
  | .firmwareTooLarge => 1

end Sys2Proof.Machine
end

