-- ==== Sys2Proof/Machine/Operands.lean ====
section
/-! DEFINITION. The one addressing form of the block: an absolute 16-bit address, decoded to a region and an offset
(20_memory.md R38, 40_address_space.md R70 to R72), the two byte stores it selects from, and the word on a port's
data lines. -/

namespace Sys2Proof.Machine

/-- The byte a store holds at an offset; an offset not listed holds 0x00. -/
def Memory.read (m : Memory) (off : Nat) : Byte :=
  match m with
  | [] => 0#8
  | (a, b) :: rest => if a = off then b else Memory.read rest off

/-- A listed byte put at its place among rising offsets. -/
def Memory.insert (m : Memory) (off : Nat) (v : Byte) : Memory :=
  match m with
  | [] => [(off, v)]
  | (a, b) :: rest => if off < a then (off, v) :: (a, b) :: rest else (a, b) :: Memory.insert rest off v

/-- The store without an entry for an offset. -/
def Memory.erase (m : Memory) (off : Nat) : Memory :=
  match m with
  | [] => []
  | (a, b) :: rest => if a = off then Memory.erase rest off else (a, b) :: Memory.erase rest off

/-- One byte stored: the old entry goes, and 0x00 leaves no entry. -/
def Memory.write (m : Memory) (off : Nat) (v : Byte) : Memory :=
  if v = 0#8 then Memory.erase m off else Memory.insert (Memory.erase m off) off v

/-- Bytes laid out in ascending order from an offset (R33). -/
def Memory.ofBytes (off : Nat) (bytes : List Byte) : Memory :=
  match bytes with
  | [] => []
  | b :: rest => if b = 0#8 then Memory.ofBytes (off + 1) rest else (off, b) :: Memory.ofBytes (off + 1) rest

/-- The canonical form: every entry's offset is below all later ones and its byte is not 0x00. -/
def Memory.wf (m : Memory) : Bool :=
  match m with
  | [] => true
  | (a, b) :: rest => decide (b ≠ 0#8) && rest.all (fun c => decide (a < c.1)) && Memory.wf rest

/-- Every listed offset is below a capacity. -/
def Memory.within (m : Memory) (size : Nat) : Bool :=
  m.all (fun c => decide (c.1 < size))

/-- The three values of `Region(addr)` (R38). -/
inductive Region where
  | program
  | working
  | unmapped
  deriving DecidableEq, Repr

/-- `Region(addr)` (R38), the arms in the document's order (R70), on unsigned numbers with no wrap-around (R72). -/
def region (g : Geometry) (addr : Addr) : Region :=
  if addr.toNat < g.progCap then .program
  else if g.workBase ≤ addr.toNat ∧ addr.toNat < g.workBase + g.workSize then .working
  else .unmapped

/-- A word on a port's `IO_W` data lines (R53). A word of that width is itself; there are no lines for bits above (log 2). -/
def portWord (ioW : Nat) (v : IoWord) : IoWord :=
  { width := ioW, bits := v.bits.setWidth ioW }

/-- The zero-based offset of a Working address (R71). -/
def workOffset (g : Geometry) (addr : Addr) : Nat :=
  addr.toNat - g.workBase

end Sys2Proof.Machine
end

