-- ==== Sys2Proof/Machine/Ops.lean ====
section
/-! DEFINITION. The named operations the meanings share: one setter per field, the four bus primitives (40_address_space.md R73, R74,
41_io_bus.md R82, R83), the core's computations run against them (10_state.md R16), taking an exception and the way out of it
(60_exceptions.md), the halt predicate and `Cycle()` (42_scheduler.md R91, R97), and which operation the block serves next. What
needs the core takes it as an argument, so that a claim can be made for every core. -/

namespace Sys2Proof.Machine

/-! One setter per field that an operation writes. -/

def State.withWork (s : State) (m : Memory) : State := { s with work := m }
def State.withSched (s : State) (x : Sched) : State := { s with sched := x }
def State.withCore (s : State) (k : CoreState) : State := { s with core := k }
def State.withCv (s : State) (b : Bool) : State := { s with cv := b }
def State.withInCore (s : State) (f : Option CoreCall) : State := { s with inCore := f }
def State.withMemReq (s : State) (r : Option (BitVec 25)) : State := { s with memReq := r }
def State.withIoReq (s : State) (r : Option IobusWord) : State := { s with ioReq := r }
def State.withCmdReq (s : State) (r : Option (BitVec 2)) : State := { s with cmdReq := r }
def State.withTick (s : State) (b : Bool) : State := { s with tick := b }
def State.withMRdata (s : State) (v : Byte) : State := { s with mRdata := v }
def State.withIoRdata (s : State) (v : IoWord) : State := { s with ioRdata := v }

/-- `cmd_ack` and `cmd_err` driven together (R51). -/
def State.withReply (s : State) (ack err : Bool) : State := { s with cmdAck := ack, cmdErr := err }

/-- `Diag(record)` (R8): one record more on the stream; it never fails (R59). -/
def State.emit (s : State) (r : DiagRecord) : State := { s with diag := s.diag ++ [r] }

/-! The four bus primitives. -/

/-- `MemRead(addr, 1)` (R73). -/
def busRead (s : State) (addr : Addr) : Byte :=
  match region s.geom addr with
  | .program => Memory.read s.prog addr.toNat
  | .working => Memory.read s.work (workOffset s.geom addr)
  | .unmapped => unmappedRead

/-- `MemWrite(addr, 1, v)` (R74). -/
def busWrite (s : State) (addr : Addr) (v : Byte) : State :=
  match region s.geom addr with
  | .program => s
  | .working => s.withWork (Memory.write s.work (workOffset s.geom addr) v)
  | .unmapped => s

/-- What `PortRead(addr)` answers: the same word, `IO_W` bits wide, at every port (R80, R82). -/
def portValue (ioW : Nat) (_port : Addr) : IoWord := ioReadValue ioW

/-- What `PortRead(addr)` does besides answering: the optional record (R81, R82). -/
def portRead (s : State) (port : Addr) : State :=
  if s.cfg.debug then s.emit (.ioRead port) else s

/-- `PortWrite(addr, v)` (R83): the value is discarded. -/
def portWrite (s : State) (port : Addr) (v : IoWord) : State :=
  if s.cfg.debug then s.emit (.ioWrite port (portWord s.ioW v)) else s

/-! The core's computations, run against the bus (R16, R105). -/

/-- A computation that only reads, answered from a state it does not change. -/
def runReads {α : Type} (p : ReadProg α) (s : State) : α :=
  match p with
  | .done a => a
  | .memRead addr next => runReads (next (busRead s addr)) s

/-- A computation of bus operations, each with its whole effect before the next is issued (R41). -/
def runBus {α : Type} (p : BusProg α) (s : State) : α × State :=
  match p with
  | .done a => (a, s)
  | .memRead addr next => runBus (next (busRead s addr)) s
  | .memWrite addr v next => runBus next (busWrite s addr v)
  | .ioRead port next => runBus (next (portValue s.ioW port)) (portRead s port)
  | .ioWrite port v next => runBus next (portWrite s port v)

/-- The bus operations such a computation issues, in order, as operations of the table. -/
def busTrace {α : Type} (p : BusProg α) (s : State) : List Instr :=
  match p with
  | .done _ => []
  | .memRead addr next => .memRead addr :: busTrace (next (busRead s addr)) s
  | .memWrite addr v next => .memWrite addr v :: busTrace next (busWrite s addr v)
  | .ioRead port next => .ioRead port :: busTrace (next (portValue s.ioW port)) (portRead s port)
  | .ioWrite port v next => .ioWrite port (portWord s.ioW v) :: busTrace next (portWrite s port v)

/-- The text of `CoreDisasm(K)`. -/
def disasmText (C : CoreFns) (s : State) : Text :=
  runReads (C.disasm s.core) s

/-- `K` after a `CoreExecute` that left `r`: the flag can only have been set (R17). Log 4. -/
def applyResult (r : CoreResult) (k : CoreState) : CoreState :=
  { image := r.image, halted := k.halted || r.setsHalted }

/-- `CoreReset(K)` (R16): everything restored, the halted flag cleared; what it reads of memory it reads in `s` (R93). Log 5. -/
def coreReset (C : CoreFns) (s : State) : CoreState :=
  { image := runReads (C.reset s.core) s, halted := false }

/-! Exceptions and the way out of them. -/

/-- `K.halted <- true` (`k_force_halt`). -/
def forceHalt (s : State) : State :=
  s.withCore { s.core with halted := true }

/-- Taking an exception. ContractViolation records `CV` and answers the host with `cmd_err` (R122); ExecutionFault forces the halted
flag and reports to the sink (R123). Nothing is saved, no mode changes and control goes nowhere (R128). -/
def takeException (e : Exception) (s : State) : State :=
  match e with
  | .contractViolation => (s.withCv true).withReply true true
  | .executionFault info => (forceHalt s).emit (.error info)

/-- There is no return from an exception (R129). The one way out of the halted condition is what RESET does to the block, in the
document's order (R93): the Working region zeroed, then the core reset, which sees it zeroed, then the scheduler idle with no tick
pending. -/
def restart (C : CoreFns) (s : State) : State :=
  (((s.withWork []).withCore (coreReset C (s.withWork []))).withSched .idle).withTick false

/-! The halt predicate and the step. -/

/-- `HaltPred(K)` (R91): the flag first, then the upcoming instruction's disassembly. -/
def haltPred (C : CoreFns) (s : State) : Bool :=
  s.core.halted || C.isNop (disasmText C s)

/-- The debug record before a step (R97). -/
def logUpcoming (C : CoreFns) (s : State) : State :=
  if s.cfg.debug then s.emit (.disasm (disasmText C s)) else s

/-- What follows `CoreExecute` (R97): on `Ok` the debug dump of the new `K`, on a fault the exception and no dump. -/
def finishStep (st : Status) (s : State) : State :=
  match st with
  | .ok => if s.cfg.debug then s.emit (.stateDump s.core) else s
  | .fault info => takeException (.executionFault info) s

/-- `Cycle()` (R97): one execute step of the core. -/
def cycle (C : CoreFns) (s : State) : State :=
  let r := runBus (C.execute s.core) (logUpcoming C s)
  finishStep r.1.status (r.2.withCore (applyResult r.1 s.core))

/-- `S <- Halted` with the timer disarmed and a pending tick discarded (R23, R95, R98). -/
def enterHalted (s : State) : State :=
  (s.withSched .halted).withTick false

/-! Which operation is served next. -/

/-- Present a transaction so that the next step serves it: nothing that goes before it stays presented. A bus transaction is issued
from inside a core function (R31), so `CoreExecute` is made the one in progress; the other operations are served with none in
progress (R102). An FSTEP arrives on no port (R55), so the free-running driver is made active. Log 23. -/
def present (t : Transaction) (s : State) : State :=
  match t with
  | .membus w => (s.withInCore (some .execute)).withMemReq (some w)
  | .iobus w => ((s.withInCore (some .execute)).withMemReq none).withIoReq (some w)
  | .hostcmd w => (s.withInCore none).withCmdReq (some w)
  | .event w =>
    let s' := (s.withInCore none).withCmdReq none
    if w.getLsbD 0 then (s'.withTick false).withSched .runFree else s'.withTick true

/-- What a core function may issue: `CoreExecute` any bus operation, `CoreDisasm` MEM.READ only (R16 (b), R31); neither any scheduler
operation (R105). -/
def mayIssue (f : CoreCall) (i : Instr) : Bool :=
  match f, i with
  | _, .memRead _ => true
  | .execute, .memWrite _ _ => true
  | .execute, .ioRead _ => true
  | .execute, .ioWrite _ _ => true
  | .disasm, .memWrite _ _ => false
  | .disasm, .ioRead _ => false
  | .disasm, .ioWrite _ _ => false
  | _, .reset => false
  | _, .start => false
  | _, .stop => false
  | _, .cycle => false
  | _, .tick => false
  | _, .fstep => false

/-- The transaction on the core's two ports, and the state with it taken off its line. The core presents one at a time (R16); where
both lines are up the memory port goes first. Log 10. -/
def busRequest (s : State) : Option (Transaction × State) :=
  match s.memReq with
  | some w => some (.membus w, s.withMemReq none)
  | none =>
    match s.ioReq with
    | some w => some (.iobus w, s.withIoReq none)
    | none => none

/-- What goes on inside a core function: a bus transaction that the function may issue is served; with none, the function is over. No
host command and no event is served meanwhile (R102). That one it may not issue stays on its line is the model's: log 10. -/
def arbitrateInCore (f : CoreCall) (s : State) : Option Transaction × State :=
  match busRequest s with
  | some (t, s') => if mayIssue f (decode t) then (some t, s') else (none, s.withInCore none)
  | none => (none, s.withInCore none)

/-- A boundary's choice (R102, R126): inside a core function, its bus transactions; else, the core's ports being deaf then (R31), the
host command, then a raised tick, whatever `S` then makes of it, then the driver: in RunFree the FSTEP the scheduler raises itself
(R55), in RunPaced the timer's next pulse. With no driver active nothing happens (R152). What is served is taken off its line. Log 10,
log 11, log 12. -/
def arbitrate (s : State) : Option Transaction × State :=
  match s.inCore with
  | some f => arbitrateInCore f s
  | none =>
    match s.cmdReq with
    | some w => (some (.hostcmd w), s.withCmdReq none)
    | none =>
      if s.tick then (some (.event 0b0#1), s.withTick false)
      else
        match s.sched with
        | .runFree => (some (.event 0b1#1), s)
        | .runPaced => (none, s.withTick true)
        | .idle => (none, s)
        | .halted => (none, s)

end Sys2Proof.Machine
end

