-- ==== Sys2Proof/Machine/AddressSpace.lean ====
section
/-! DEFINITION. MEM.READ and MEM.WRITE (40_address_space.md). -/

namespace Sys2Proof.Machine

/-- MEM.READ (R73): the byte on `m_rdata`, and nothing else. -/
def execMemRead (addr : Addr) (s : State) : Host.Outcome State Fault Refusal :=
  .next (s.withMRdata (busRead s addr))

/-- MEM.WRITE (R74). `m_rdata` keeps its value, which the core must not use (R51). -/
def execMemWrite (addr : Addr) (value : Byte) (s : State) : Host.Outcome State Fault Refusal :=
  .next (busWrite s addr value)

end Sys2Proof.Machine
end

