-- ==== Sys2Proof/Machine/IoBus.lean ====
section
/-! DEFINITION. IO.READ and IO.WRITE (41_io_bus.md). -/

namespace Sys2Proof.Machine

/-- IO.READ (R82): the word on `io_rdata`, and the optional record. -/
def execIoRead (port : Addr) (s : State) : Host.Outcome State Fault Refusal :=
  .next ((portRead s port).withIoRdata (portValue s.ioW port))

/-- IO.WRITE (R83): the optional record and nothing else. -/
def execIoWrite (port : Addr) (value : IoWord) (s : State) : Host.Outcome State Fault Refusal :=
  .next (portWrite s port value)

end Sys2Proof.Machine
end

