-- ==== Sys2Proof/Machine/Scheduler.lean ====
section
/-! DEFINITION. The six scheduler operations (42_scheduler.md): each as a function of a state, for any core where it needs one, and
then as the operation of this machine's core. Every one of them ends in a next state. -/

namespace Sys2Proof.Machine

/-- RESET (R93), acknowledged without error. -/
def resetOp (C : CoreFns) (s : State) : State :=
  (restart C s).withReply true false

/-- START (R94). In paced mode it is acknowledged at once; in free-running mode when `S` has left RunFree (R101). A driver starts
with no tick pending: its first pulse comes one period after arming (R132). -/
def startOp (s : State) : State :=
  if s.sched.running then takeException .contractViolation s
  else if s.cfg.interval then ((s.withSched .runPaced).withTick false).withReply true false
  else ((s.withSched .runFree).withTick false).withReply false false

/-- STOP (R95), acknowledged without error. -/
def stopOp (s : State) : State :=
  (enterHalted (forceHalt s)).withReply true false

/-- CYCLE (R96): the bare step, in every state and with no predicate; never an error to the host. -/
def cycleOp (C : CoreFns) (s : State) : State :=
  (cycle C s).withReply true false

/-- TICK (R98): does nothing unless `S` is RunPaced. -/
def tickOp (C : CoreFns) (s : State) : State :=
  match s.sched with
  | .runPaced => if haltPred C s then enterHalted s else cycle C s
  | .idle => s
  | .runFree => s
  | .halted => s

/-- FSTEP (R99): does nothing unless `S` is RunFree. Leaving RunFree acknowledges the START that entered it (R101). -/
def fstepOp (C : CoreFns) (s : State) : State :=
  match s.sched with
  | .runFree => if haltPred C s then (enterHalted s).withReply true false else cycle C s
  | .idle => s
  | .runPaced => s
  | .halted => s

/-- RESET on this machine's core. -/
def execReset (s : State) : Host.Outcome State Fault Refusal := .next (resetOp Config.core s)

/-- START. -/
def execStart (s : State) : Host.Outcome State Fault Refusal := .next (startOp s)

/-- STOP. -/
def execStop (s : State) : Host.Outcome State Fault Refusal := .next (stopOp s)

/-- CYCLE on this machine's core. -/
def execCycle (s : State) : Host.Outcome State Fault Refusal := .next (cycleOp Config.core s)

/-- TICK on this machine's core. -/
def execTick (s : State) : Host.Outcome State Fault Refusal := .next (tickOp Config.core s)

/-- FSTEP on this machine's core. -/
def execFstep (s : State) : Host.Outcome State Fault Refusal := .next (fstepOp Config.core s)

end Sys2Proof.Machine
end

