-- ==== Sys2Proof/Machine/Dispatch.lean ====
section
/-! DEFINITION. One arm per operation (30_encoding.md R50). -/

namespace Sys2Proof.Machine

def exec (i : Instr) (s : State) : Host.Outcome State Fault Refusal :=
  match i with
  | .memRead addr => Sys2Proof.Machine.execMemRead addr s
  | .memWrite addr value => Sys2Proof.Machine.execMemWrite addr value s
  | .ioRead port => Sys2Proof.Machine.execIoRead port s
  | .ioWrite port value => Sys2Proof.Machine.execIoWrite port value s
  | .reset => Sys2Proof.Machine.execReset s
  | .start => Sys2Proof.Machine.execStart s
  | .stop => Sys2Proof.Machine.execStop s
  | .cycle => Sys2Proof.Machine.execCycle s
  | .tick => Sys2Proof.Machine.execTick s
  | .fstep => Sys2Proof.Machine.execFstep s

end Sys2Proof.Machine
end

