-- ==== Sys2Proof/Machine/Step.lean ====
section
/-! DEFINITION. One step of the block: the operation served at a step boundary, from start to finish (42_scheduler.md R102). -/

namespace Sys2Proof.Machine

/-- Serve the next operation, or, where none is ready, let the timer or nothing happen. -/
def step (s : State) : Host.Outcome State Fault Refusal :=
  match arbitrate s with
  | (some t, s') => exec (decode t) s'
  | (none, s') => .next s'

/-- The state in which the next step serves the opcode-table word `w` of `nbits` bits, read at the hardware's port width; a number that
is no word changes nothing. Log 16, log 23. -/
def State.withFetchWord (s : State) (nbits w : Nat) : State :=
  match transactionOfWord s.ioW nbits w with
  | .ok t => present t s
  | .error _ => s

end Sys2Proof.Machine
end

