-- ==== Sys2Proof/Machine/Construct.lean ====
section
/-! DEFINITION. Construction, the block's power-on (70_reset_and_hazards.md R150). -/

namespace Sys2Proof.Machine

/-- The configuration register an accepted input gives: omitted fields take their defaults (R6, R57). -/
def settleCfg (c : CfgInput) : Cfg :=
  { debug := Option.getD c.debug Cfg.default.debug
    interval := c.interval.getD Cfg.default.interval
    clockSpeed :=
      match c.clockSpeed with
      | none => Cfg.default.clockSpeed
      | some n => BitVec.ofInt 32 n }

/-- `Construct(FW, CFG)` on hardware of a geometry and a port width (R150, R24). Too much firmware is FirmwareTooLarge, and no instance
exists (R121). -/
def construct (g : Geometry) (ioW : Nat) (fw : List Byte) (c : CfgInput) : Host.Outcome State Fault Refusal :=
  if g.wellFormed then
    if firmwareFits g fw then
      if c.periodLegal then .next (State.constructed g ioW (settleCfg c) (Memory.ofBytes 0 fw))
      else .refused .clockSpeedOutOfRange
    else .fault .firmwareTooLarge
  else .refused .geometryNotAdmitted

end Sys2Proof.Machine
end

