-- ==== Sys2Proof/Machine/Ports.lean ====
section
/-! DEFINITION. The block around ANY core (10_state.md R16: the core is a parameter), for claims that quantify over it: an operation
and a boundary as functions of the core and the state. And the core-control requests an operation drives (30_encoding.md R51), which
are outputs and not state. -/

namespace Sys2Proof.Machine

/-- The four request lines of the core-control group (R51, D10). -/
inductive CoreRequest where
  /-- `k_exec`. -/
  | exec
  /-- `k_disasm`. -/
  | disasm
  /-- `k_reset`. -/
  | reset
  /-- `k_force_halt`. -/
  | forceHalt
  deriving DecidableEq, Repr

/-- The requests of the halt predicate: a disassembly, unless the flag already decides (R91). -/
def haltPredRequests (s : State) : List CoreRequest :=
  if s.core.halted then [] else [.disasm]

/-- The requests of `Cycle()` (R97): the logged disassembly in debug mode, one execution, and on a fault the forced halt. -/
def cycleRequests (C : CoreFns) (s : State) : List CoreRequest :=
  (if s.cfg.debug then [.disasm] else []) ++
    match (runBus (C.execute s.core) (logUpcoming C s)).1.status with
    | .ok => [.exec]
    | .fault _ => [.exec, .forceHalt]

/-- The requests of an enabled driver event (R98, R99). -/
def driverRequests (C : CoreFns) (s : State) : List CoreRequest :=
  haltPredRequests s ++ (if haltPred C s then [] else cycleRequests C s)

/-- The requests an operation drives, in order. The bus operations drive none. -/
def coreRequests (C : CoreFns) (i : Instr) (s : State) : List CoreRequest :=
  match i with
  | .memRead _ => []
  | .memWrite _ _ => []
  | .ioRead _ => []
  | .ioWrite _ _ => []
  | .reset => [.reset]
  | .start => []
  | .stop => [.forceHalt]
  | .cycle => cycleRequests C s
  | .tick => if s.sched = .runPaced then driverRequests C s else []
  | .fstep => if s.sched = .runFree then driverRequests C s else []

/-- The operations around any core; `exec` is this on `Config.core`. -/
def serve (C : CoreFns) (i : Instr) (s : State) : State :=
  match i with
  | .memRead addr => s.withMRdata (busRead s addr)
  | .memWrite addr value => busWrite s addr value
  | .ioRead port => (portRead s port).withIoRdata (portValue s.ioW port)
  | .ioWrite port value => portWrite s port value
  | .reset => resetOp C s
  | .start => startOp s
  | .stop => stopOp s
  | .cycle => cycleOp C s
  | .tick => tickOp C s
  | .fstep => fstepOp C s

/-- A boundary around any core (R102); `step` is this on `Config.core`. -/
def boundary (C : CoreFns) (s : State) : State :=
  match arbitrate s with
  | (some t, s') => serve C (decode t) s'
  | (none, s') => s'

/-- So many boundaries, with nothing new presented between them. -/
def boundaries (C : CoreFns) (n : Nat) (s : State) : State :=
  match n with
  | 0 => s
  | k + 1 => boundaries C k (boundary C s)

end Sys2Proof.Machine
end

