-- ==== Sys2Proof/Safety.lean ====
section
/-! DEFINITION. What holds of every reachable state (10_state.md R25), what a correct run never shows (60_exceptions.md R122), and the
comparisons claims use. -/

namespace Sys2Proof.Machine

/-- The invariant: the construction constants are legal (R5, R20), both stores are in canonical form inside their regions (R12, R13), a
tick is pending only while the timer is armed (R19, R23), `io_rdata` is zero (R51, R80), and the port's lines have its width (R53). -/
structure State.Inv (s : State) : Prop where
  geom_legal : s.geom.Legal
  cfg_legal : s.cfg.Legal
  prog_wf : Memory.wf s.prog = true
  prog_within : Memory.within s.prog s.geom.progCap = true
  work_wf : Memory.wf s.work = true
  work_within : Memory.within s.work s.geom.workSize = true
  tick_armed : s.tick = true → s.sched = .runPaced
  io_zero : s.ioRdata = ioReadValue s.ioW
  io_lines : ∀ w, s.ioReq = some w → w.ioW = s.ioW

/-- The core's ports are quiet (R31, R102): no core function is left running, and nothing stands on the two ports. -/
def State.busQuiet (s : State) : Prop := s.inCore = none ∧ s.memReq = none ∧ s.ioReq = none

/-- No operation's contract was ever broken: the premise every claim about a correct run takes (R122). -/
def State.noViolation (s : State) : Prop := s.cv = false

/-- The host premise that recovers the document's blocking free-running start (R101, D16): no command while `S` is RunFree. -/
def State.hostQuietInFree (s : State) : Prop := s.sched = .runFree → s.cmdReq = none

/-- No core function is running and no command is presented: a boundary at which only the timer or a driver can act. -/
def State.noRequest (s : State) : Prop := s.inCore = none ∧ s.cmdReq = none

/-- What the spec gives the block, without the interface lines the model keeps for a step to read and drive (log 8, log 10): the
state of 10_state.md section 9, the construction constants, and the diagnostic stream. -/
structure Arch where
  geom : Geometry
  ioW : Nat
  cfg : Cfg
  prog : Memory
  work : Memory
  sched : Sched
  core : CoreState
  cv : Bool
  diag : List DiagRecord
  deriving DecidableEq, Repr

/-- That part of a state. -/
def State.arch (s : State) : Arch :=
  { geom := s.geom, ioW := s.ioW, cfg := s.cfg, prog := s.prog, work := s.work, sched := s.sched, core := s.core, cv := s.cv, diag := s.diag }

/-- Operations one after another, stopping where one does not end in a next state (R41). -/
def execAll (is : List Instr) (s : State) : Host.Outcome State Fault Refusal :=
  match is with
  | [] => .next s
  | i :: rest =>
    match exec i s with
    | .next t => execAll rest t
    | .fault r => .fault r
    | .refused r => .refused r

/-- The state without its diagnostics: debug off and the output trace forgotten (R136). -/
def State.silenced (s : State) : State :=
  { s with cfg := { s.cfg with debug := false }, diag := [] }

end Sys2Proof.Machine
end

