-- ==== Sys2Proof/Certificates/Slice0/Obligations.lean ====
section
/-! DEFINITION. The statements made about the block, one `def Obligations.<Name> : Prop` each. A statement that cites a rule speaks of
`State.arch`, the state the spec gives the block; what it says of the model's interface lines is marked with the log entry. Claims
about what the core does are made for every core (10_state.md R16), and hold of this machine's core by `ExecServesOnThisCore`. -/

open Sys2Proof Sys2Proof.Machine

/-! ## Encodings (30_encoding.md) -/

/-- R52 to R55: no bit of an operation is lost in its word, for every port width and every operation at every operand value. -/
def Obligations.DecodeOfEncodeIsTheOperation : Prop :=
  ∀ (ioW : Nat) (i : Instr), i.wellFormed ioW = true → decode (encode ioW i) = i

/-- R52 to R55, R58, the other direction: the word of what a transaction selects is that transaction, but for the `value` bits of a
read, and those bits select nothing. -/
def Obligations.EncodeOfDecodeIsTheWord : Prop :=
  ∀ (ioW : Nat) (t : Transaction), t.onPorts ioW = true →
    (decode t).wellFormed ioW = true ∧ encode ioW (decode t) = t.canonical ∧ decode t.canonical = decode t

/-- R58, at every port width: every bit pattern of every format selects exactly one of the ten operations, the one whose row of the
opcode table agrees with it under its mask, and the `value` bits of a read are ignored. -/
def Obligations.EveryPatternSelectsExactlyOneOperation : Prop :=
  (∀ (ioW : Nat) (t : Transaction), t.onPorts ioW = true →
    ∃ r ∈ opcodeTable ioW, r.selects t = true ∧ r.mnemonic = (decode t).mnemonic ∧
      ∀ r' ∈ opcodeTable ioW, r'.selects t = true → r' = r) ∧
  (∀ (addr : Addr) (v : Byte), decode (.membus (membusWord 0#1 addr v)) = .memRead addr) ∧
  (∀ (port : Addr) (v : IoWord), decode (.iobus (iobusWord 0#1 port v)) = .ioRead port)

/-- 95_test_vectors.md section 3.1: the words the spec writes out decode to the operations they stand for. -/
def Obligations.WordsOfTheSpecDecode : Prop :=
  decode (.membus 0x0200000#25) = .memRead 0x2000#16 ∧
  decode (.membus 0x0FFFFFF#25) = .memRead 0xFFFF#16 ∧
  decode (.membus 0x12000AA#25) = .memWrite 0x2000#16 0xAA#8 ∧
  decode (.iobus { ioW := 16, bits := 0x000100000#33 }) = .ioRead 0x0010#16 ∧
  decode (.iobus { ioW := 16, bits := 0x1001000FF#33 }) = .ioWrite 0x0010#16 { width := 16, bits := 0x00FF#16 } ∧
  decode (.hostcmd 3#2) = .cycle ∧ decode (.event 1#1) = .fstep

/-- The model's choice (log 16): a number of a format's exact or byte-rounded width is read, at any port width, as that word when it has
no bit above the format's width, and is turned down by name when it has one; the opcode table is read at the default port width. -/
def Obligations.TableWordsWithStrayBitsAreRejected : Prop :=
  (∀ (ioW nbits w : Nat) (f : Format), formatOfBits ioW nbits = some f →
    (w < 2 ^ f.width ioW → decodeWordAt ioW nbits w = some (decode (f.transaction ioW w)) ∧ (f.transaction ioW w).bits = w ∧
      (f.transaction ioW w).onPorts ioW = true) ∧
    (2 ^ f.width ioW ≤ w → transactionOfWord ioW nbits w = .error (.bitAboveWord f) ∧ decodeWordAt ioW nbits w = none)) ∧
  (∀ nbits w : Nat, decodeTableWord nbits w = decodeWordAt 16 nbits w)

/-! ## The step -/

/-- R31, R102, R126, and the model's order of service (log 10, log 11, log 12): inside a core function the bus transactions it may issue
are taken off their line and executed one after another, and then it is over; with none in progress a presented host command is
executed, else a raised tick, else the driver's event; with no driver active and nothing presented nothing happens. -/
def Obligations.StepServesTheDecodedOperation : Prop :=
  ∀ s : State,
    (∀ f w, s.inCore = some f → s.memReq = some w → mayIssue f (decode (.membus w)) = true →
      step s = exec (decode (.membus w)) (s.withMemReq none)) ∧
    (∀ f w, s.inCore = some f → s.memReq = none → s.ioReq = some w → mayIssue f (decode (.iobus w)) = true →
      step s = exec (decode (.iobus w)) (s.withIoReq none)) ∧
    (∀ f, s.inCore = some f → s.memReq = none → s.ioReq = none → step s = .next (s.withInCore none)) ∧
    (∀ w, s.inCore = none → s.cmdReq = some w → step s = exec (decode (.hostcmd w)) (s.withCmdReq none)) ∧
    (s.noRequest → s.tick = true → step s = exec .tick (s.withTick false)) ∧
    (s.noRequest → s.tick = false → s.sched = .runFree → step s = exec .fstep s) ∧
    (s.noRequest → s.tick = false → s.sched = .runPaced → step s = .next (s.withTick true)) ∧
    (s.noRequest → s.tick = false → s.sched.running = false → step s = .next s)

/-- R31: with no core function running the core's two ports are deaf: whatever stands on them, no step serves it or depends on it; and
inside `CoreDisasm`, which issues MEM.READs only (R16 (b)), the MEM.READ presented is served. What becomes of any other transaction
presented there is the model's choice (log 10): it is left on its line and the function is over. R16 (b) is a premise on the core, and
by R105 the block does not check what a core issues. -/
def Obligations.BusPortsAreDeafOutsideTheCore : Prop :=
  (∀ (C : CoreFns) (s : State), s.inCore = none → ∀ m w,
    boundary C ((s.withMemReq m).withIoReq w) = ((boundary C s).withMemReq m).withIoReq w) ∧
  (∀ (C : CoreFns) (s : State), s.inCore = some .disasm →
    (∀ w addr, s.memReq = some w → decode (.membus w) = .memRead addr →
      boundary C s = serve C (.memRead addr) (s.withMemReq none)) ∧
    ((∀ w addr, s.memReq = some w → decode (.membus w) ≠ .memRead addr) → boundary C s = s.withInCore none))

/-- R102: nothing but the core's own bus operations is served inside a core function: a host command presented meanwhile, a raised
tick and the scheduler's state have no part in the step, and wait. -/
def Obligations.CommandsWaitForTheCoreFunction : Prop :=
  ∀ (C : CoreFns) (s : State), s.inCore ≠ none → ∀ c b x,
    boundary C (((s.withCmdReq c).withTick b).withSched x) = (((boundary C s).withCmdReq c).withTick b).withSched x

/-- R31, R102: no step leaves a core function running or puts anything on the core's ports: from a boundary with none running and the
ports empty, as construction leaves them, every run stays so. -/
def Obligations.CorePortsStayQuiet : Prop :=
  State.reset.busQuiet ∧ (∀ g ioW fw c s, construct g ioW fw c = .next s → s.busQuiet) ∧
  ∀ s t : State, s.busQuiet → step s = .next t → t.busQuiet

/-- The model's own (log 23): the word placed by `withFetchWord`, read at the hardware's port width, is what the next step executes, on
a state that differs from the given one in the core function in progress and the input lines only, and in `S` = RunFree where the
operation is FSTEP. -/
def Obligations.PlacedWordIsServedNext : Prop :=
  ∀ (s : State) (nbits w : Nat) (i : Instr), decodeWordAt s.ioW nbits w = some i →
    ∃ s', step (s.withFetchWord nbits w) = exec i s' ∧
      s'.arch = (if i = .fstep then { s.arch with sched := .runFree } else s.arch) ∧
      s'.mRdata = s.mRdata ∧ s'.ioRdata = s.ioRdata ∧ s'.cmdAck = s.cmdAck ∧ s'.cmdErr = s.cmdErr

/-- Every operation ends in a next state, which is what the same operation does around any core, on this machine's core; and so does
every step. -/
def Obligations.ExecServesOnThisCore : Prop :=
  (∀ (i : Instr) (s : State), exec i s = .next (serve Config.core i s)) ∧
  (∀ s : State, step s = .next (boundary Config.core s))

/-! ## The memory space (20_memory.md, 40_address_space.md) -/

/-- R38: the three regions of a legal geometry, each address in exactly one, and 0xFFFF in none but Unmapped. -/
def Obligations.RegionMapOfEveryLegalGeometry : Prop :=
  ∀ g : Geometry, g.Legal →
    (∀ addr : Addr,
      (region g addr = .program ↔ addr.toNat < g.progCap) ∧
      (region g addr = .working ↔ g.workBase ≤ addr.toNat ∧ addr.toNat < g.workBase + g.workSize) ∧
      (region g addr = .unmapped ↔
        (g.progCap ≤ addr.toNat ∧ addr.toNat < g.workBase) ∨ g.workBase + g.workSize ≤ addr.toNat) ∧
      ¬ (addr.toNat < g.progCap ∧ g.workBase ≤ addr.toNat ∧ addr.toNat < g.workBase + g.workSize)) ∧
    region g 0xFFFF#16 = .unmapped

/-- R71: in the Working arm, taken exactly between the window's bounds, the offset is `addr - WORK_BASE`, the subtraction never borrows,
and the offset indexes an existing byte, the one read; in the Program arm the offset is the address itself. -/
def Obligations.OffsetsIndexExistingBytes : Prop :=
  ∀ (s : State) (addr : Addr),
    (region s.geom addr = .working →
      s.geom.workBase ≤ addr.toNat ∧ addr.toNat < s.geom.workBase + s.geom.workSize ∧
      s.geom.workBase + workOffset s.geom addr = addr.toNat ∧ workOffset s.geom addr < s.geom.workSize ∧
      busRead s addr = Memory.read s.work (workOffset s.geom addr)) ∧
    (region s.geom addr = .program → addr.toNat < s.geom.progCap ∧ busRead s addr = Memory.read s.prog addr.toNat)

/-- R73: MEM.READ answers the Program byte, the Working byte or 0x00, the arms in this order, and does nothing else; its encoding is
MEMBUS with `we` = 0. (That the answer stays on `m_rdata` until the next MEM.READ is the model's: log 8.) -/
def Obligations.MemReadAnswersByRegion : Prop :=
  ∀ (s : State) (addr : Addr),
    (∀ junk : Byte, decode (.membus (membusWord 0#1 addr junk)) = .memRead addr) ∧
    ∃ t, exec (.memRead addr) s = .next t ∧ t.arch = s.arch ∧
      t.mRdata =
        (if addr.toNat < s.geom.progCap then Memory.read s.prog addr.toNat
         else if s.geom.workBase ≤ addr.toNat ∧ addr.toNat < s.geom.workBase + s.geom.workSize then
           Memory.read s.work (addr.toNat - s.geom.workBase)
         else 0x00#8)

/-- R74: MEM.WRITE stores its whole byte at the Working offset, and does nothing at any other address; its encoding is MEMBUS with
`we` = 1. -/
def Obligations.MemWriteStoresInTheWorkingArmOnly : Prop :=
  ∀ (s : State) (addr : Addr) (v : Byte),
    decode (.membus (membusWord 1#1 addr v)) = .memWrite addr v ∧
    ∃ t, exec (.memWrite addr v) s = .next t ∧
      t.arch =
        (if addr.toNat < s.geom.progCap then s.arch
         else if s.geom.workBase ≤ addr.toNat ∧ addr.toNat < s.geom.workBase + s.geom.workSize then
           { s.arch with work := Memory.write s.work (addr.toNat - s.geom.workBase) v }
         else s.arch)

/-- R74, R76: the frame of MEM.WRITE byte by byte: the address stored to reads the value, every other address reads as before, and so
does every address where the store is discarded. Both stores may be any lists of cells. -/
def Obligations.MemWriteChangesOneByteAtMost : Prop :=
  ∀ (s : State) (addr : Addr) (v : Byte), ∃ t, exec (.memWrite addr v) s = .next t ∧
    (region s.geom addr = .working → busRead t addr = v) ∧
    (region s.geom addr ≠ .working → ∀ a, busRead t a = busRead s a) ∧
    (∀ a, a ≠ addr → busRead t a = busRead s a) ∧
    t.prog = s.prog ∧ t.sched = s.sched ∧ t.core = s.core ∧ t.cv = s.cv ∧ t.diag = s.diag

/-- R75: a Program address reads the byte loaded at construction, 0x00 beyond a short firmware, after any operations whatever, among
them any number of writes to that address. -/
def Obligations.ProgramBytesReadAsLoaded : Prop :=
  ∀ (g : Geometry) (ioW : Nat) (fw : List Byte) (c : CfgInput) (s : State), construct g ioW fw c = .next s →
    ∀ (addr : Addr), addr.toNat < g.progCap → ∀ is : List Instr,
      ∃ t u, execAll is s = .next t ∧ exec (.memRead addr) t = .next u ∧ u.mRdata = fw.getD addr.toNat 0x00#8

/-- What an operation comes to as far as the bus goes: a step of the core stands for the bus operations it issues, in order (R41,
R105), a driver event that takes no step for none, every other operation for itself. -/
def Sys2Proof.Claims.opsOf (i : Instr) (s : State) : List Instr :=
  match i with
  | .cycle => busTrace (Config.core.execute s.core) (logUpcoming Config.core s)
  | .tick =>
    if s.sched = .runPaced ∧ haltPred Config.core s = false then busTrace (Config.core.execute s.core) (logUpcoming Config.core s)
    else []
  | .fstep =>
    if s.sched = .runFree ∧ haltPred Config.core s = false then busTrace (Config.core.execute s.core) (logUpcoming Config.core s)
    else []
  | .memRead addr => [.memRead addr]
  | .memWrite addr v => [.memWrite addr v]
  | .ioRead port => [.ioRead port]
  | .ioWrite port v => [.ioWrite port v]
  | .reset => [.reset]
  | .start => [.start]
  | .stop => [.stop]

/-- What a list of operations comes to, so taken. -/
def Sys2Proof.Claims.trace (is : List Instr) (s : State) : List Instr :=
  match is with
  | [] => []
  | i :: rest =>
    Sys2Proof.Claims.opsOf i s ++
      (match exec i s with
      | .next t => Sys2Proof.Claims.trace rest t
      | .fault _ => []
      | .refused _ => [])

/-- The value of the latest write to an address since the latest RESET in a list of operations; a first value where it holds
neither. -/
def Sys2Proof.Claims.latest (addr : Addr) (first : Byte) (ops : List Instr) : Byte :=
  ops.foldl (fun b i =>
    match i with
    | .memWrite a v => if a = addr then v else b
    | .reset => 0x00#8
    | _ => b) first

/-- R76: a Working address reads the value of the latest write to it since the latest RESET or construction, else 0x00, after any
operations whatever, the writes of the core's own steps among them; a write followed at once by a read gives the value written; after
RESET it reads 0x00; and a write to one address never changes what another address reads. -/
def Obligations.WorkingReadGivesTheLatestWrite : Prop :=
  (∀ (g : Geometry) (ioW : Nat) (fw : List Byte) (c : CfgInput) (s : State), construct g ioW fw c = .next s →
    ∀ addr, region g addr = .working → ∀ is, ∃ t u, execAll is s = .next t ∧ exec (.memRead addr) t = .next u ∧
      u.mRdata = Sys2Proof.Claims.latest addr 0x00#8 (Sys2Proof.Claims.trace is s)) ∧
  ∀ (s : State) (addr : Addr),
    (region s.geom addr = .working →
      (∀ is, ∃ t u, execAll is s = .next t ∧ exec (.memRead addr) t = .next u ∧
        u.mRdata = Sys2Proof.Claims.latest addr (busRead s addr) (Sys2Proof.Claims.trace is s)) ∧
      (∀ v, ∃ t u, exec (.memWrite addr v) s = .next t ∧ exec (.memRead addr) t = .next u ∧ u.mRdata = v) ∧
      (∃ t u, exec .reset s = .next t ∧ exec (.memRead addr) t = .next u ∧ u.mRdata = 0x00#8)) ∧
    (∀ a v, a ≠ addr → ∃ t, exec (.memWrite a v) s = .next t ∧ busRead t addr = busRead s addr)

/-- R77: an address in the hole or above the Working window reads 0x00, and a write there changes nothing at all. -/
def Obligations.UnmappedReadsZeroAndDiscards : Prop :=
  ∀ (s : State) (addr : Addr), s.geom.Legal →
    (s.geom.progCap ≤ addr.toNat ∧ addr.toNat < s.geom.workBase) ∨ s.geom.workBase + s.geom.workSize ≤ addr.toNat →
    (∃ t, exec (.memRead addr) s = .next t ∧ t.mRdata = 0x00#8) ∧ (∀ v, exec (.memWrite addr v) s = .next s)

/-- R37: MEM.READ changes no state and emits no record; two MEM.READs of one address with no MEM.WRITE to it and no RESET between
them, the core's own writes counted, give the same byte; a Program or unmapped address gives the same byte for ever; IO.READ changes
no state and emits at most its one record in debug mode. -/
def Obligations.ReadsAreIdempotent : Prop :=
  ∀ (s : State) (addr : Addr),
    (∃ t, exec (.memRead addr) s = .next t ∧ t.arch = s.arch) ∧
    (∀ is : List Instr,
      (∀ i ∈ Sys2Proof.Claims.trace (.memRead addr :: is) s, i ≠ .reset ∧ ∀ v, i ≠ .memWrite addr v) →
      ∃ t u v, execAll (.memRead addr :: is) s = .next t ∧ exec (.memRead addr) s = .next u ∧
        exec (.memRead addr) t = .next v ∧ v.mRdata = u.mRdata) ∧
    (region s.geom addr ≠ .working →
      ∀ is : List Instr, ∃ t u v, execAll is s = .next t ∧ exec (.memRead addr) s = .next u ∧
        exec (.memRead addr) t = .next v ∧ v.mRdata = u.mRdata) ∧
    (∀ port, ∃ t, exec (.ioRead port) s = .next t ∧
      t.arch = { s.arch with diag := if s.cfg.debug then s.diag ++ [.ioRead port] else s.diag })

/-- R43: a store to a Working address is seen by a later fetch: a core whose disassembly begins by reading that address reads the
byte stored. -/
def Obligations.DisassemblySeesTheStoredByte : Prop :=
  ∀ (C : CoreFns) (s : State) (addr : Addr) (v : Byte) (rest : Byte → ReadProg Text),
    region s.geom addr = .working → C.disasm s.core = .memRead addr rest →
    ∃ t, exec (.memWrite addr v) s = .next t ∧ disasmText C t = runReads (rest v) t

/-! ## The port space (41_io_bus.md) -/

/-- R82: IO.READ answers 0 at every port, emits one record in debug mode and none otherwise, and does nothing else; its encoding is
IOBUS with `we` = 0. -/
def Obligations.IoReadAnswersZero : Prop :=
  ∀ (s : State) (port : Addr),
    (∀ junk : IoWord, decode (.iobus (iobusWord 0#1 port junk)) = .ioRead port) ∧
    ∃ t, exec (.ioRead port) s = .next t ∧ t.ioRdata = { width := s.ioW, bits := 0#s.ioW } ∧
      t.arch = { s.arch with diag := if s.cfg.debug then s.diag ++ [.ioRead port] else s.diag }

/-- After R83: IO.WRITE discards its word, emits one record carrying it in debug mode and none otherwise, and does nothing else; no port
reads it back; its encoding is IOBUS with `we` = 1. A word of the port's width, the only one R83 speaks of, is carried exactly as
presented. That of an operand of another width, which no such port can present, the record carries the low `IO_W` bits, zeros above
where it is narrower, is the model's choice (log 2). -/
def Obligations.IoWriteDiscardsItsWord : Prop :=
  ∀ (s : State) (port : Addr) (v : IoWord),
    decode (.iobus (iobusWord 1#1 port v)) = .ioWrite port v ∧ (v.width = s.ioW → portWord s.ioW v = v) ∧
    ∃ t, exec (.ioWrite port v) s = .next t ∧
      t.arch = { s.arch with diag := if s.cfg.debug then s.diag ++ [.ioWrite port (portWord s.ioW v)] else s.diag } ∧
      ∀ q, ∃ u, exec (.ioRead q) t = .next u ∧ u.ioRdata = { width := s.ioW, bits := 0#s.ioW }

/-- R30, R80: a port written reads back 0, whatever port is read, and every memory address reads as before both operations. -/
def Obligations.PortsAndMemoryAreSeparate : Prop :=
  ∀ (s : State) (p q : Addr) (v : IoWord),
    ∃ t, execAll [.ioWrite p v, .ioRead q] s = .next t ∧ t.ioRdata = { width := s.ioW, bits := 0#s.ioW } ∧
      (∀ a, busRead t a = busRead s a) ∧ t.prog = s.prog ∧ t.work = s.work

/-! ## The scheduler (42_scheduler.md) -/

/-- R93: RESET, from any state: every Working byte zero, then the core reset, which would read them as zero, with its halted flag
clear, `S` Idle; `PROG`, `CV`, `CFG` and the sink untouched; a pending tick discarded. (That it can only read: log 5.) -/
def Obligations.ResetRestartsTheBlock : Prop :=
  decode (.hostcmd 0b00#2) = .reset ∧
  ∀ s : State, ∃ t, exec .reset s = .next t ∧
    t.arch =
      { s.arch with
        work := []
        core := { image := runReads (Config.core.reset s.core) { s with work := [] }, halted := false }
        sched := .idle } ∧
    (∀ addr, region s.geom addr = .working → busRead t addr = 0x00#8) ∧ t.tick = false ∧
    t.cmdAck = true ∧ t.cmdErr = false

/-- R93, a corner: RESET after RESET changes nothing more, for a core whose reset is idempotent. -/
def Obligations.ResetTwiceIsResetOnce : Prop :=
  ∀ (C : CoreFns) (s r : State), r = serve C .reset s → coreReset C r = r.core → serve C .reset r = r

/-- R94, R122: START while a driver runs is a contract violation: `CV` set, `cmd_err` answered, nothing else touched. Otherwise it
selects the driver that `CFG.interval` names, acknowledged at once in paced mode and not yet in free-running mode (R101). Either way
it evaluates no predicate and asks nothing of the core. -/
def Obligations.StartSelectsADriverOrViolates : Prop :=
  decode (.hostcmd 0b01#2) = .start ∧
  ∀ s : State, coreRequests Config.core .start s = [] ∧ ∃ t, exec .start s = .next t ∧
    (s.sched = .runPaced ∨ s.sched = .runFree →
      t.arch = { s.arch with cv := true } ∧ t.tick = s.tick ∧ t.cmdAck = true ∧ t.cmdErr = true) ∧
    (s.sched = .idle ∨ s.sched = .halted →
      t.arch = { s.arch with sched := if s.cfg.interval then .runPaced else .runFree } ∧ t.tick = false ∧
        t.cmdAck = s.cfg.interval ∧ t.cmdErr = false)

/-- R95: STOP, from any state: `K.halted` true, `S` Halted, the rest of `K`, the memories and `CV` untouched, a pending tick
discarded; and it is idempotent. -/
def Obligations.StopForcesTheHaltedCondition : Prop :=
  decode (.hostcmd 0b10#2) = .stop ∧
  ∀ s : State, ∃ t, exec .stop s = .next t ∧
    t.arch = { s.arch with core := { s.core with halted := true }, sched := .halted } ∧ t.tick = false ∧
    t.cmdAck = true ∧ t.cmdErr = false ∧ exec .stop t = .next t

/-- R95, R102, R126: once a presented STOP is served, whether or not a tick was pending, no operation follows: every later step
leaves the machine exactly as STOP left it, with the core's own state untouched. -/
def Obligations.NothingExecutesAfterStop : Prop :=
  ∀ s : State, s.inCore = none → s.cmdReq = some 0b10#2 →
    ∃ t, step s = .next t ∧ t.sched = .halted ∧ t.core = { s.core with halted := true } ∧ t.work = s.work ∧
      ∀ n, Host.Core.run Sys2Proof.core n t = .next t

/-- R96, R97: CYCLE is one execute step in every state: the core's bus operations take their effects, then on `Ok` the new `K` stands
and debug mode dumps it, on a fault `K.halted` is forced and one Error record is sent whatever the debug mode. `S` and `CV` are
untouched and the host sees no error. (That an execution can only set the halted flag is the model's reading of R17: log 4.) -/
def Obligations.CycleIsOneExecuteStep : Prop :=
  decode (.hostcmd 0b11#2) = .cycle ∧
  ∀ (s s1 : State) (r : CoreResult),
    runBus (Config.core.execute s.core)
      (if s.cfg.debug then s.emit (.disasm (runReads (Config.core.disasm s.core) s)) else s) = (r, s1) →
    ∃ t, exec .cycle s = .next t ∧ t.sched = s.sched ∧ t.cv = s.cv ∧ t.cmdAck = true ∧ t.cmdErr = false ∧
      t.arch =
        match r.status with
        | .ok =>
          { s1.arch with
            core := { image := r.image, halted := s.core.halted || r.setsHalted }
            diag := if s.cfg.debug then
                s1.diag ++ [.stateDump { image := r.image, halted := s.core.halted || r.setsHalted }]
              else s1.diag }
        | .fault info => { s1.arch with core := { image := r.image, halted := true }, diag := s1.diag ++ [.error info] }

/-- R98: TICK in RunPaced halts the scheduler, changing nothing else, when the halt predicate holds, and is otherwise exactly one
execute step; in any other state it does nothing. Its encoding is EVENT 0. -/
def Obligations.TickHaltsOrExecutesOneStep : Prop :=
  decode (.event 0#1) = .tick ∧
  ∀ s : State, ∃ t u, exec .tick s = .next t ∧ exec .cycle s = .next u ∧
    (s.sched ≠ .runPaced → t = s) ∧
    (s.sched = .runPaced →
      if s.core.halted || Config.core.isNop (runReads (Config.core.disasm s.core) s) then
        t.arch = { s.arch with sched := .halted } ∧ t.tick = false
      else t = cycle Config.core s ∧ t.arch = u.arch ∧ t.sched = .runPaced)

/-- R99: FSTEP in RunFree, the same body; in any other state it does nothing. Its encoding is EVENT 1. -/
def Obligations.FstepHaltsOrExecutesOneStep : Prop :=
  decode (.event 1#1) = .fstep ∧
  ∀ s : State, ∃ t u, exec .fstep s = .next t ∧ exec .cycle s = .next u ∧
    (s.sched ≠ .runFree → t = s) ∧
    (s.sched = .runFree →
      if s.core.halted || Config.core.isNop (runReads (Config.core.disasm s.core) s) then
        t.arch = { s.arch with sched := .halted } ∧ t.cmdAck = true ∧ t.cmdErr = false
      else t = cycle Config.core s ∧ t.arch = u.arch ∧ t.sched = .runFree)

/-- The transition table of R92: the next `S`, from the operation, `S`, `CFG.interval` and the halt predicate `h`. The bus operations,
which the table leaves out, keep `S` (R105). -/
def Sys2Proof.Claims.nextSched (i : Instr) (x : Sched) (interval h : Bool) : Sched :=
  match i, x with
  | .reset, _ => .idle
  | .start, .idle => if interval then .runPaced else .runFree
  | .start, .halted => if interval then .runPaced else .runFree
  | .start, .runPaced => .runPaced
  | .start, .runFree => .runFree
  | .stop, _ => .halted
  | .tick, .runPaced => if h then .halted else .runPaced
  | .fstep, .runFree => if h then .halted else .runFree
  | _, x => x

/-- R92: the complete transition table, with ContractViolation exactly where the table says `CV!`, and nothing at all where it says the
event is not enabled. -/
def Obligations.TransitionTableHolds : Prop :=
  ∀ (C : CoreFns) (i : Instr) (s : State),
    (serve C i s).sched = Sys2Proof.Claims.nextSched i s.sched s.cfg.interval (haltPred C s) ∧
    (serve C i s).cv = (s.cv || decide (i = .start ∧ (s.sched = .runPaced ∨ s.sched = .runFree))) ∧
    ((i = .tick ∧ s.sched ≠ .runPaced) ∨ (i = .fstep ∧ s.sched ≠ .runFree) → serve C i s = s)

/-- R91, R100: where the halt predicate holds, a driver event executes nothing: `K`, both memories and the sink are exactly as they
were, only `S` changes, and the core is asked for no execution. -/
def Obligations.HaltingInstructionIsNeverExecuted : Prop :=
  ∀ (C : CoreFns) (s : State), haltPred C s = true →
    (s.sched = .runPaced → (serve C .tick s).arch = { s.arch with sched := .halted } ∧
      CoreRequest.exec ∉ coreRequests C .tick s) ∧
    (s.sched = .runFree → (serve C .fstep s).arch = { s.arch with sched := .halted } ∧
      CoreRequest.exec ∉ coreRequests C .fstep s)

/-- R126, R23 (and log 13): a host command presented beside a pending tick is served first, and the tick is still pending afterwards
exactly when the timer is still armed. -/
def Obligations.PendingTickSurvivesOnlyInRunPaced : Prop :=
  ∀ (s : State) (c : BitVec 2), s.inCore = none → s.cmdReq = some c → s.tick = true → s.sched = .runPaced →
    ∃ t, step s = .next t ∧ step s = exec (decode (.hostcmd c)) (s.withCmdReq none) ∧
      (t.tick = true ↔ t.sched = .runPaced)

/-- R152, R139: with no driver active and nothing presented the machine stays exactly as it is, for any number of steps. -/
def Obligations.NoDriverNothingHappens : Prop :=
  ∀ s : State, s.noRequest → s.tick = false → s.sched = .idle ∨ s.sched = .halted →
    ∀ n, Host.Core.run Sys2Proof.core n s = .next s

/-- R104 (and log 11): an enabled driver event is served: in RunFree at the next step, in RunPaced at the next but one when no pulse
is pending yet, on the same state. -/
def Obligations.DriverEventsAreServed : Prop :=
  ∀ s : State, s.noRequest → s.tick = false →
    (s.sched = .runFree → step s = exec .fstep s) ∧
    (s.sched = .runPaced → ∃ t, step s = .next t ∧ step t = exec .tick s)

/-- R94, R163: START after STOP, a fault or a core that halted itself, without RESET, ends at once: the block is as it was, with no
step executed, after the driver's first event. That this event is the first step in free-running mode and the second in paced mode,
one step raising the pulse and the next serving it, is the model's choice (log 11). -/
def Obligations.StartWithTheFlagSetEndsAtOnce : Prop :=
  ∀ s : State, s.noRequest → s.sched = .halted → s.core.halted = true →
    ∃ t u, exec .start s = .next t ∧ t.sched.running = true ∧ u.arch = s.arch ∧
      Host.Core.run Sys2Proof.core (if s.cfg.interval then 2 else 1) t = .next u

/-- R99, R91 (the source's example S4): around any core, RESET and START with a nop at the reset vector end with no step executed, at
the driver's first event. That this event is the first boundary in free-running mode and the second in paced mode, one raising the
pulse and the next serving it, is the model's choice (log 11). -/
def Obligations.NopAtTheResetVectorHaltsAtOnce : Prop :=
  ∀ (C : CoreFns) (s r : State), s.noRequest → r = serve C .reset s → C.isNop (disasmText C r) = true →
    (boundaries C (if s.cfg.interval then 2 else 1) (serve C .start r)).arch = { r.arch with sched := .halted }

/-! ## The core inside a step (10_state.md R16, 42_scheduler.md R105) -/

/-- R41, R105: the effect of the bus operations a core issues is the effect of those operations, executed one after another. -/
def Obligations.BusOperationsOfAStepAreTheTableOperations : Prop :=
  ∀ (p : BusProg CoreResult) (s : State), ∃ t, execAll (busTrace p s) s = .next t ∧ t.arch = (runBus p s).2.arch

/-- R105, R97: nothing the core does in a step changes `S`, `CV`, the Program region or the construction constants. That it changes
none of the interface lines kept in State either is the model's choice (log 8): a MEM.READ or IO.READ inside a step drives `m_rdata` or
`io_rdata` (R51, R73, R82), and the model hands the answer to the core and leaves the two fields as they were. -/
def Obligations.CoreCannotReachTheScheduler : Prop :=
  ∀ (C : CoreFns) (s : State),
    cycle C s = { s with work := (cycle C s).work, core := (cycle C s).core, diag := (cycle C s).diag }

/-- R97, R40: the frame of a step over memory: an address that the core stored nothing to in this step reads as before, and so does
every address outside the Working window. -/
def Obligations.StepChangesOnlyTheBytesItStores : Prop :=
  ∀ (C : CoreFns) (s : State) (addr : Addr),
    (∀ v, Instr.memWrite addr v ∉ busTrace (C.execute s.core) (logUpcoming C s)) ∨ region s.geom addr ≠ .working →
    busRead (cycle C s) addr = busRead s addr

/-- R97, R123, R128: taking an ExecutionFault: the halted flag is forced, one Error record carries the core's own report, `S` is
unchanged, and whatever the core did before failing stays done. -/
def Obligations.ExecutionFaultForcesHaltedWithoutRollback : Prop :=
  ∀ (C : CoreFns) (s s1 : State) (r : CoreResult) (info : Text),
    runBus (C.execute s.core) (logUpcoming C s) = (r, s1) → r.status = .fault info →
    (serve C .cycle s).arch = { s1.arch with core := { image := r.image, halted := true }, diag := s1.diag ++ [.error info] } ∧
    (serve C .cycle s).sched = s.sched ∧ (serve C .cycle s).cmdErr = false

/-- R130 (the source's example S7): around a core whose every execution fails and whose instructions are no nops, a running driver
reports exactly one failure and leaves the core halted and the scheduler Halted, in both modes. That four boundaries are enough, in
paced mode two that raise a pulse and two that serve one, is the model's choice (log 11). -/
def Obligations.AlwaysFailingCoreIsReportedOnce : Prop :=
  ∀ (C : CoreFns) (s : State) (n : Nat),
    (∀ k σ, ∃ info, (runBus (C.execute k) σ).1.status = .fault info) → (∀ text, C.isNop text = false) →
    s.noRequest → s.sched.running = true → s.core.halted = false → 4 ≤ n →
    (boundaries C n s).sched = .halted ∧ (boundaries C n s).core.halted = true ∧
    ((boundaries C n s).diag.filter DiagRecord.isError).length = (s.diag.filter DiagRecord.isError).length + 1

/-! ## Whole-machine rules -/

/-- R17: STOP sets the halted flag, RESET clears it, and no other operation clears it. (For an execution inside a step this is the
model's reading of R17: log 4.) -/
def Obligations.OnlyResetClearsTheHaltedFlag : Prop :=
  ∀ (i : Instr) (s : State), ∃ t, exec i s = .next t ∧
    (i = .reset → t.core.halted = false) ∧ (i = .stop → t.core.halted = true) ∧
    (i ≠ .reset → s.core.halted = true → t.core.halted = true)

/-- R18: `CV` is 0 after construction, set by START while running and by nothing else, cleared by nothing, and no operation's
behaviour depends on it. -/
def Obligations.ContractViolationFlagIsSticky : Prop :=
  (∀ g ioW fw c s, construct g ioW fw c = .next s → s.cv = false) ∧
  (∀ (i : Instr) (s : State) (b : Bool), ∃ t u, exec i s = .next t ∧ exec i (s.withCv b) = .next u ∧
    t.cv = (s.cv || decide (i = .start ∧ s.sched.running = true)) ∧ u.withCv false = t.withCv false)

/-- R12, R20, R24, R25: no step writes the Program region, the configuration, the geometry or the port width, or clears `CV`. -/
def Obligations.StepsKeepWhatConstructionFixed : Prop :=
  ∀ s t : State, step s = .next t →
    t.prog = s.prog ∧ t.cfg = s.cfg ∧ t.geom = s.geom ∧ t.ioW = s.ioW ∧ (s.cv = true → t.cv = true)

/-- R13, R22: `WORK` is written by MEM.WRITE, by RESET and inside a step of the core, and by nothing else; `K` by RESET, STOP and a
step of the core. -/
def Obligations.WritersOfMemoryAndCore : Prop :=
  ∀ (i : Instr) (s : State), ∃ t, exec i s = .next t ∧
    (t.work ≠ s.work → i = .reset ∨ i = .cycle ∨ i = .tick ∨ i = .fstep ∨ ∃ a v, i = .memWrite a v) ∧
    (t.core ≠ s.core → i = .reset ∨ i = .stop ∨ i = .cycle ∨ i = .tick ∨ i = .fstep)

/-- R51, R101 and the model's holding of the lines (log 8, log 9, log 13): which operation drives which interface line, every other
line keeping its value. -/
def Obligations.OperationsDriveOnlyTheirOwnLines : Prop :=
  ∀ (C : CoreFns) (i : Instr) (s : State),
    (serve C i s).inCore = s.inCore ∧
    (serve C i s).memReq = s.memReq ∧ (serve C i s).ioReq = s.ioReq ∧ (serve C i s).cmdReq = s.cmdReq ∧
    ((∀ a, i ≠ .memRead a) → (serve C i s).mRdata = s.mRdata) ∧
    ((∀ p, i ≠ .ioRead p) → (serve C i s).ioRdata = s.ioRdata) ∧
    ((serve C i s).tick = s.tick ∨ (serve C i s).tick = false) ∧
    ((serve C i s).sched = s.sched → i ≠ .reset → i ≠ .stop → (serve C i s).tick = s.tick) ∧
    (i = .reset ∨ i = .stop ∨ i = .cycle → (serve C i s).cmdAck = true ∧ (serve C i s).cmdErr = false) ∧
    (i = .fstep → s.sched = .runFree → (serve C i s).sched = .halted →
      (serve C i s).cmdAck = true ∧ (serve C i s).cmdErr = false) ∧
    (i = .fstep → (serve C i s).sched = s.sched →
      (serve C i s).cmdAck = s.cmdAck ∧ (serve C i s).cmdErr = s.cmdErr) ∧
    (i = .tick ∨ (∃ a, i = .memRead a) ∨ (∃ a v, i = .memWrite a v) ∨ (∃ p, i = .ioRead p) ∨ (∃ p v, i = .ioWrite p v) →
      (serve C i s).cmdAck = s.cmdAck ∧ (serve C i s).cmdErr = s.cmdErr)

/-- R136: debug mode changes no behaviour: around any core, two states that differ only in the debug bit and the output trace are
taken by every operation, and by every boundary, to two states that differ only so. -/
def Obligations.DebugModeChangesNoBehaviour : Prop :=
  ∀ (C : CoreFns) (s t : State), s.silenced = t.silenced →
    (∀ i, (serve C i s).silenced = (serve C i t).silenced) ∧ (boundary C s).silenced = (boundary C t).silenced

/-- R25 and the model's canonical form: every step keeps the invariant of Safety.lean: legal constants, both stores canonical and
inside their regions, a tick pending only while the timer is armed, `io_rdata` zero, the port's lines as wide as the port. -/
def Obligations.EveryStepKeepsTheInvariant : Prop :=
  ∀ s t : State, s.Inv → step s = .next t → t.Inv

/-- The invariant holds of the reset machine, and of every machine that construction accepts. -/
def Obligations.ConstructionEstablishesTheInvariant : Prop :=
  State.reset.Inv ∧ ∀ g ioW fw c s, construct g ioW fw c = .next s → s.Inv

/-! ## Construction and reset values (70_reset_and_hazards.md) -/

/-- R150: an accepted construction: the firmware byte by byte, 0x00 beyond it, WORK zero, `K` = `CoreInit`, `S` Idle, `CV` 0, omitted
configuration fields at their defaults, nothing emitted; too long a firmware raises FirmwareTooLarge; a period below 1 is refused. -/
def Obligations.ConstructionLoadsAndInitialises : Prop :=
  ∀ (g : Geometry) (ioW : Nat) (fw : List Byte) (c : CfgInput), g.Legal →
    (g.progCap < fw.length → construct g ioW fw c = .fault .firmwareTooLarge) ∧
    (fw.length ≤ g.progCap → ∀ n, c.clockSpeed = some n → n < 1 → construct g ioW fw c = .refused .clockSpeedOutOfRange) ∧
    (fw.length ≤ g.progCap → c.periodLegal = true →
      ∃ s, construct g ioW fw c = .next s ∧ s.geom = g ∧ s.ioW = ioW ∧
        (∀ i, Memory.read s.prog i = fw.getD i 0x00#8) ∧ (∀ i, Memory.read s.work i = 0x00#8) ∧
        s.core = Config.core.init s.cfg.debug ∧ s.sched = .idle ∧ s.cv = false ∧ s.diag = [] ∧
        s.cfg.debug = Option.getD c.debug false ∧ s.cfg.interval = c.interval.getD true ∧
        (s.cfg.clockSpeed.toNat : Int) = c.clockSpeed.getD 10)

/-- R6, R13, R15, R18, 92 D2: the reset machine: the default configuration and port width, WORK zero, `S` Idle, `CV` 0. (That it
carries no firmware and the free geometry is the model's choice: log 1, log 6.) -/
def Obligations.ResetMachineHasTheSpecsValues : Prop :=
  State.reset.sched = .idle ∧ State.reset.cv = false ∧ (∀ i, Memory.read State.reset.work i = 0x00#8) ∧
  State.reset.ioW = 16 ∧ State.reset.cfg = { debug := false, interval := true, clockSpeed := 10#32 } ∧
  construct Config.geometry.toGeometry 16 [] { debug := none, interval := none, clockSpeed := none } = .next State.reset

/-- R15, R19: the code of `S` on the status port and the two signals derived from it. -/
def Obligations.StatusPortShowsTheScheduler : Prop :=
  ∀ s : State,
    (s.statusLines.stRunning = true ↔ s.sched = .runPaced ∨ s.sched = .runFree) ∧
    s.statusLines.stRunning = (s.statusLines.stS.getLsbD 1 ^^ s.statusLines.stS.getLsbD 0) ∧
    (s.statusLines.tmrRun = true ↔ s.sched = .runPaced) ∧
    (s.statusLines.stS = 0b00#2 ↔ s.sched = .idle) ∧ (s.statusLines.stS = 0b01#2 ↔ s.sched = .runPaced) ∧
    (s.statusLines.stS = 0b10#2 ↔ s.sched = .runFree) ∧ (s.statusLines.stS = 0b11#2 ↔ s.sched = .halted) ∧
    s.statusLines.stCv = s.cv ∧ s.statusLines.stHalted = s.core.halted
end

