-- ==== Sys2Proof/Laws/Memory.lean ====
section
/-! SUPPORT. The laws of one backing store: what a read gives after a write or a load, and that every operation keeps the canonical
form and the store's bounds. The read laws hold for every list of cells, in canonical form or not. -/

namespace Sys2Proof.Machine

@[simp] theorem Memory.read_nil (off : Nat) : Memory.read [] off = 0#8 := rfl

@[simp] theorem Memory.read_cons (a : Nat) (b : Byte) (m : Memory) (off : Nat) :
    Memory.read ((a, b) :: m) off = if a = off then b else Memory.read m off := rfl

@[simp] theorem Memory.read_erase_self (m : Memory) (off : Nat) : Memory.read (Memory.erase m off) off = 0#8 := by
  induction m with
  | nil => rfl
  | cons c m ih =>
    obtain ⟨a, b⟩ := c
    by_cases h : a = off <;> simp [Memory.erase, h, ih]

theorem Memory.read_erase_ne (m : Memory) {off x : Nat} (h : x ≠ off) :
    Memory.read (Memory.erase m off) x = Memory.read m x := by
  induction m with
  | nil => rfl
  | cons c m ih =>
    obtain ⟨a, b⟩ := c
    by_cases ha : a = off
    · subst ha
      simp [Memory.erase, ih, Ne.symm h]
    · by_cases hx : a = x
      · subst hx
        simp [Memory.erase, ha]
      · simp [Memory.erase, ha, hx, ih]

theorem Memory.read_insert_ne (m : Memory) {off x : Nat} (v : Byte) (h : x ≠ off) :
    Memory.read (Memory.insert m off v) x = Memory.read m x := by
  induction m with
  | nil => simp [Memory.insert, Ne.symm h]
  | cons c m ih =>
    obtain ⟨a, b⟩ := c
    by_cases ha : off < a
    · simp [Memory.insert, ha, Ne.symm h]
    · by_cases hx : a = x
      · subst hx
        simp [Memory.insert, ha]
      · simp [Memory.insert, ha, hx, ih]

theorem Memory.read_insert_self (m : Memory) {off : Nat} (v : Byte) (h : ∀ c ∈ m, c.1 ≠ off) :
    Memory.read (Memory.insert m off v) off = v := by
  induction m with
  | nil => simp [Memory.insert]
  | cons c m ih =>
    obtain ⟨a, b⟩ := c
    have ha : a ≠ off := h (a, b) (by simp)
    have ih' := ih fun c hc => h c (by simp [hc])
    by_cases hl : off < a <;> simp [Memory.insert, hl, ha, ih']

theorem Memory.erase_ne (m : Memory) (off : Nat) : ∀ c ∈ Memory.erase m off, c.1 ≠ off := by
  induction m with
  | nil => simp [Memory.erase]
  | cons c m ih =>
    obtain ⟨a, b⟩ := c
    by_cases ha : a = off
    · simpa [Memory.erase, ha] using ih
    · intro c hc
      simp only [Memory.erase, ha, if_false, List.mem_cons] at hc
      rcases hc with rfl | hc
      · exact ha
      · exact ih c hc

theorem Memory.erase_subset (m : Memory) (off : Nat) : ∀ c ∈ Memory.erase m off, c ∈ m := by
  induction m with
  | nil => simp [Memory.erase]
  | cons c m ih =>
    obtain ⟨a, b⟩ := c
    intro c hc
    by_cases ha : a = off
    · exact List.mem_cons_of_mem _ (ih c (by simpa [Memory.erase, ha] using hc))
    · simp only [Memory.erase, ha, if_false, List.mem_cons] at hc
      rcases hc with rfl | hc
      · simp
      · exact List.mem_cons_of_mem _ (ih c hc)

theorem Memory.mem_insert (m : Memory) (off : Nat) (v : Byte) (c : Host.Cell) (hc : c ∈ Memory.insert m off v) :
    c = (off, v) ∨ c ∈ m := by
  induction m with
  | nil => simpa [Memory.insert] using hc
  | cons d m ih =>
    obtain ⟨a, b⟩ := d
    by_cases hl : off < a
    · simpa [Memory.insert, hl] using hc
    · simp only [Memory.insert, hl, if_false, List.mem_cons] at hc
      rcases hc with rfl | hc
      · simp
      · rcases ih hc with h | h <;> simp [h]

/-- The spec lemma of a store, at the offset stored to. -/
@[simp] theorem Memory.read_write_self (m : Memory) (off : Nat) (v : Byte) : Memory.read (Memory.write m off v) off = v := by
  by_cases hv : v = 0#8
  · simp [Memory.write, hv]
  · simp only [Memory.write, hv, if_false]
    exact Memory.read_insert_self _ _ (Memory.erase_ne m off)

/-- The spec lemma of a store, at every other offset. -/
theorem Memory.read_write_ne (m : Memory) {off x : Nat} (v : Byte) (h : x ≠ off) :
    Memory.read (Memory.write m off v) x = Memory.read m x := by
  by_cases hv : v = 0#8
  · simp [Memory.write, hv, Memory.read_erase_ne m h]
  · simp [Memory.write, hv, Memory.read_insert_ne _ _ h, Memory.read_erase_ne m h]

theorem Memory.wf_cons (a : Nat) (b : Byte) (m : Memory) :
    Memory.wf ((a, b) :: m) = true ↔ b ≠ 0#8 ∧ (∀ c ∈ m, a < c.1) ∧ Memory.wf m = true := by
  simp [Memory.wf, and_assoc]

theorem Memory.wf_erase {m : Memory} (off : Nat) (h : Memory.wf m = true) : Memory.wf (Memory.erase m off) = true := by
  induction m with
  | nil => rfl
  | cons c m ih =>
    obtain ⟨a, b⟩ := c
    rw [Memory.wf_cons] at h
    by_cases ha : a = off
    · simpa [Memory.erase, ha] using ih h.2.2
    · simp only [Memory.erase, ha, if_false, Memory.wf_cons]
      exact ⟨h.1, fun c hc => h.2.1 c (Memory.erase_subset m off c hc), ih h.2.2⟩

theorem Memory.wf_insert {m : Memory} {off : Nat} {v : Byte} (hv : v ≠ 0#8) (hne : ∀ c ∈ m, c.1 ≠ off)
    (h : Memory.wf m = true) : Memory.wf (Memory.insert m off v) = true := by
  induction m with
  | nil => simp [Memory.insert, hv, Memory.wf]
  | cons c m ih =>
    obtain ⟨a, b⟩ := c
    have h' := h
    rw [Memory.wf_cons] at h
    have ha : a ≠ off := hne (a, b) (by simp)
    by_cases hl : off < a
    · simp only [Memory.insert, hl, if_true]
      rw [Memory.wf_cons]
      refine ⟨hv, fun c hc => ?_, h'⟩
      rcases List.mem_cons.1 hc with rfl | hc
      · exact hl
      · exact Nat.lt_trans hl (h.2.1 c hc)
    · simp only [Memory.insert, hl, if_false]
      rw [Memory.wf_cons]
      refine ⟨h.1, fun c hc => ?_, ih (fun c hc => hne c (by simp [hc])) h.2.2⟩
      rcases Memory.mem_insert m off v c hc with rfl | hc
      · show a < off
        omega
      · exact h.2.1 c hc

/-- A store keeps the canonical form. -/
theorem Memory.wf_write {m : Memory} (off : Nat) (v : Byte) (h : Memory.wf m = true) :
    Memory.wf (Memory.write m off v) = true := by
  by_cases hv : v = 0#8
  · simpa [Memory.write, hv] using Memory.wf_erase off h
  · simp only [Memory.write, hv, if_false]
    exact Memory.wf_insert hv (Memory.erase_ne m off) (Memory.wf_erase off h)

theorem Memory.within_iff (m : Memory) (size : Nat) : Memory.within m size = true ↔ ∀ c ∈ m, c.1 < size := by
  simp [Memory.within]

/-- A store inside the bounds keeps the bounds. -/
theorem Memory.within_write {m : Memory} {size off : Nat} (v : Byte) (ho : off < size) (h : Memory.within m size = true) :
    Memory.within (Memory.write m off v) size = true := by
  rw [Memory.within_iff] at h ⊢
  intro c hc
  by_cases hv : v = 0#8
  · exact h c (Memory.erase_subset m off c (by simpa [Memory.write, hv] using hc))
  · simp only [Memory.write, hv, if_false] at hc
    rcases Memory.mem_insert _ _ _ _ hc with rfl | hc
    · exact ho
    · exact h c (Memory.erase_subset m off c hc)

theorem Memory.mem_ofBytes (bytes : List Byte) : ∀ (off : Nat), ∀ c ∈ Memory.ofBytes off bytes,
    off ≤ c.1 ∧ c.1 < off + bytes.length := by
  induction bytes with
  | nil => intro off c hc; simp [Memory.ofBytes] at hc
  | cons b bytes ih =>
    intro off c hc
    have key : c ∈ Memory.ofBytes (off + 1) bytes → off ≤ c.1 ∧ c.1 < off + (b :: bytes).length := fun h => by
      have := ih (off + 1) c h
      simp only [List.length_cons]
      omega
    by_cases hb : b = 0#8
    · exact key (by simpa [Memory.ofBytes, hb] using hc)
    · simp only [Memory.ofBytes, hb, if_false, List.mem_cons] at hc
      rcases hc with rfl | hc
      · simp
      · exact key hc

/-- A loaded store is in canonical form. -/
theorem Memory.wf_ofBytes (bytes : List Byte) : ∀ off, Memory.wf (Memory.ofBytes off bytes) = true := by
  induction bytes with
  | nil => intro off; rfl
  | cons b bytes ih =>
    intro off
    by_cases hb : b = 0#8
    · simpa [Memory.ofBytes, hb] using ih (off + 1)
    · simp only [Memory.ofBytes, hb, if_false]
      rw [Memory.wf_cons]
      exact ⟨hb, fun c hc => (Memory.mem_ofBytes bytes (off + 1) c hc).1, ih (off + 1)⟩

theorem Memory.read_of_forall_ne {m : Memory} {off : Nat} (h : ∀ c ∈ m, c.1 ≠ off) : Memory.read m off = 0#8 := by
  induction m with
  | nil => rfl
  | cons c m ih =>
    obtain ⟨a, b⟩ := c
    have ha : a ≠ off := h (a, b) (by simp)
    simp [ha, ih fun c hc => h c (by simp [hc])]

/-- The spec lemma of a load: byte `i` of the bytes stands at offset `i` above the start, and 0x00 beyond them. -/
theorem Memory.read_ofBytes (bytes : List Byte) : ∀ (off i : Nat),
    Memory.read (Memory.ofBytes off bytes) (off + i) = bytes.getD i 0#8 := by
  induction bytes with
  | nil => intro off i; simp [Memory.ofBytes]
  | cons b bytes ih =>
    intro off i
    cases i with
    | zero =>
      by_cases hb : b = 0#8
      · have hne : ∀ c ∈ Memory.ofBytes (off + 1) bytes, c.1 ≠ off := fun c hc => by
          have := (Memory.mem_ofBytes bytes (off + 1) c hc).1
          omega
        simpa [Memory.ofBytes, hb] using Memory.read_of_forall_ne hne
      · simp [Memory.ofBytes, hb]
    | succ i =>
      have h := ih (off + 1) i
      rw [show off + 1 + i = off + (i + 1) by omega] at h
      by_cases hb : b = 0#8
      · simpa [Memory.ofBytes, hb] using h
      · simp [Memory.ofBytes, hb]
        simpa using h

end Sys2Proof.Machine
end

