-- ==== Sys2Proof/Laws/State.lean ====
section
/-! SUPPORT. What each setter of Machine/Ops.lean does to each field of State: the field it writes, and that it writes no other. -/

namespace Sys2Proof.Machine

variable (s : State)

section withWork

variable (m : Memory)

@[simp] theorem State.withWork_geom : (s.withWork m).geom = s.geom := rfl
@[simp] theorem State.withWork_ioW : (s.withWork m).ioW = s.ioW := rfl
@[simp] theorem State.withWork_cfg : (s.withWork m).cfg = s.cfg := rfl
@[simp] theorem State.withWork_prog : (s.withWork m).prog = s.prog := rfl
@[simp] theorem State.withWork_work : (s.withWork m).work = m := rfl
@[simp] theorem State.withWork_sched : (s.withWork m).sched = s.sched := rfl
@[simp] theorem State.withWork_core : (s.withWork m).core = s.core := rfl
@[simp] theorem State.withWork_cv : (s.withWork m).cv = s.cv := rfl
@[simp] theorem State.withWork_inCore : (s.withWork m).inCore = s.inCore := rfl
@[simp] theorem State.withWork_memReq : (s.withWork m).memReq = s.memReq := rfl
@[simp] theorem State.withWork_ioReq : (s.withWork m).ioReq = s.ioReq := rfl
@[simp] theorem State.withWork_cmdReq : (s.withWork m).cmdReq = s.cmdReq := rfl
@[simp] theorem State.withWork_tick : (s.withWork m).tick = s.tick := rfl
@[simp] theorem State.withWork_mRdata : (s.withWork m).mRdata = s.mRdata := rfl
@[simp] theorem State.withWork_ioRdata : (s.withWork m).ioRdata = s.ioRdata := rfl
@[simp] theorem State.withWork_cmdAck : (s.withWork m).cmdAck = s.cmdAck := rfl
@[simp] theorem State.withWork_cmdErr : (s.withWork m).cmdErr = s.cmdErr := rfl
@[simp] theorem State.withWork_diag : (s.withWork m).diag = s.diag := rfl

end withWork

section withSched

variable (x : Sched)

@[simp] theorem State.withSched_geom : (s.withSched x).geom = s.geom := rfl
@[simp] theorem State.withSched_ioW : (s.withSched x).ioW = s.ioW := rfl
@[simp] theorem State.withSched_cfg : (s.withSched x).cfg = s.cfg := rfl
@[simp] theorem State.withSched_prog : (s.withSched x).prog = s.prog := rfl
@[simp] theorem State.withSched_work : (s.withSched x).work = s.work := rfl
@[simp] theorem State.withSched_sched : (s.withSched x).sched = x := rfl
@[simp] theorem State.withSched_core : (s.withSched x).core = s.core := rfl
@[simp] theorem State.withSched_cv : (s.withSched x).cv = s.cv := rfl
@[simp] theorem State.withSched_inCore : (s.withSched x).inCore = s.inCore := rfl
@[simp] theorem State.withSched_memReq : (s.withSched x).memReq = s.memReq := rfl
@[simp] theorem State.withSched_ioReq : (s.withSched x).ioReq = s.ioReq := rfl
@[simp] theorem State.withSched_cmdReq : (s.withSched x).cmdReq = s.cmdReq := rfl
@[simp] theorem State.withSched_tick : (s.withSched x).tick = s.tick := rfl
@[simp] theorem State.withSched_mRdata : (s.withSched x).mRdata = s.mRdata := rfl
@[simp] theorem State.withSched_ioRdata : (s.withSched x).ioRdata = s.ioRdata := rfl
@[simp] theorem State.withSched_cmdAck : (s.withSched x).cmdAck = s.cmdAck := rfl
@[simp] theorem State.withSched_cmdErr : (s.withSched x).cmdErr = s.cmdErr := rfl
@[simp] theorem State.withSched_diag : (s.withSched x).diag = s.diag := rfl

end withSched

section withCore

variable (k : CoreState)

@[simp] theorem State.withCore_geom : (s.withCore k).geom = s.geom := rfl
@[simp] theorem State.withCore_ioW : (s.withCore k).ioW = s.ioW := rfl
@[simp] theorem State.withCore_cfg : (s.withCore k).cfg = s.cfg := rfl
@[simp] theorem State.withCore_prog : (s.withCore k).prog = s.prog := rfl
@[simp] theorem State.withCore_work : (s.withCore k).work = s.work := rfl
@[simp] theorem State.withCore_sched : (s.withCore k).sched = s.sched := rfl
@[simp] theorem State.withCore_core : (s.withCore k).core = k := rfl
@[simp] theorem State.withCore_cv : (s.withCore k).cv = s.cv := rfl
@[simp] theorem State.withCore_inCore : (s.withCore k).inCore = s.inCore := rfl
@[simp] theorem State.withCore_memReq : (s.withCore k).memReq = s.memReq := rfl
@[simp] theorem State.withCore_ioReq : (s.withCore k).ioReq = s.ioReq := rfl
@[simp] theorem State.withCore_cmdReq : (s.withCore k).cmdReq = s.cmdReq := rfl
@[simp] theorem State.withCore_tick : (s.withCore k).tick = s.tick := rfl
@[simp] theorem State.withCore_mRdata : (s.withCore k).mRdata = s.mRdata := rfl
@[simp] theorem State.withCore_ioRdata : (s.withCore k).ioRdata = s.ioRdata := rfl
@[simp] theorem State.withCore_cmdAck : (s.withCore k).cmdAck = s.cmdAck := rfl
@[simp] theorem State.withCore_cmdErr : (s.withCore k).cmdErr = s.cmdErr := rfl
@[simp] theorem State.withCore_diag : (s.withCore k).diag = s.diag := rfl

end withCore

section withCv

variable (b : Bool)

@[simp] theorem State.withCv_geom : (s.withCv b).geom = s.geom := rfl
@[simp] theorem State.withCv_ioW : (s.withCv b).ioW = s.ioW := rfl
@[simp] theorem State.withCv_cfg : (s.withCv b).cfg = s.cfg := rfl
@[simp] theorem State.withCv_prog : (s.withCv b).prog = s.prog := rfl
@[simp] theorem State.withCv_work : (s.withCv b).work = s.work := rfl
@[simp] theorem State.withCv_sched : (s.withCv b).sched = s.sched := rfl
@[simp] theorem State.withCv_core : (s.withCv b).core = s.core := rfl
@[simp] theorem State.withCv_cv : (s.withCv b).cv = b := rfl
@[simp] theorem State.withCv_inCore : (s.withCv b).inCore = s.inCore := rfl
@[simp] theorem State.withCv_memReq : (s.withCv b).memReq = s.memReq := rfl
@[simp] theorem State.withCv_ioReq : (s.withCv b).ioReq = s.ioReq := rfl
@[simp] theorem State.withCv_cmdReq : (s.withCv b).cmdReq = s.cmdReq := rfl
@[simp] theorem State.withCv_tick : (s.withCv b).tick = s.tick := rfl
@[simp] theorem State.withCv_mRdata : (s.withCv b).mRdata = s.mRdata := rfl
@[simp] theorem State.withCv_ioRdata : (s.withCv b).ioRdata = s.ioRdata := rfl
@[simp] theorem State.withCv_cmdAck : (s.withCv b).cmdAck = s.cmdAck := rfl
@[simp] theorem State.withCv_cmdErr : (s.withCv b).cmdErr = s.cmdErr := rfl
@[simp] theorem State.withCv_diag : (s.withCv b).diag = s.diag := rfl

end withCv

section withInCore

variable (f : Option CoreCall)

@[simp] theorem State.withInCore_geom : (s.withInCore f).geom = s.geom := rfl
@[simp] theorem State.withInCore_ioW : (s.withInCore f).ioW = s.ioW := rfl
@[simp] theorem State.withInCore_cfg : (s.withInCore f).cfg = s.cfg := rfl
@[simp] theorem State.withInCore_prog : (s.withInCore f).prog = s.prog := rfl
@[simp] theorem State.withInCore_work : (s.withInCore f).work = s.work := rfl
@[simp] theorem State.withInCore_sched : (s.withInCore f).sched = s.sched := rfl
@[simp] theorem State.withInCore_core : (s.withInCore f).core = s.core := rfl
@[simp] theorem State.withInCore_cv : (s.withInCore f).cv = s.cv := rfl
@[simp] theorem State.withInCore_inCore : (s.withInCore f).inCore = f := rfl
@[simp] theorem State.withInCore_memReq : (s.withInCore f).memReq = s.memReq := rfl
@[simp] theorem State.withInCore_ioReq : (s.withInCore f).ioReq = s.ioReq := rfl
@[simp] theorem State.withInCore_cmdReq : (s.withInCore f).cmdReq = s.cmdReq := rfl
@[simp] theorem State.withInCore_tick : (s.withInCore f).tick = s.tick := rfl
@[simp] theorem State.withInCore_mRdata : (s.withInCore f).mRdata = s.mRdata := rfl
@[simp] theorem State.withInCore_ioRdata : (s.withInCore f).ioRdata = s.ioRdata := rfl
@[simp] theorem State.withInCore_cmdAck : (s.withInCore f).cmdAck = s.cmdAck := rfl
@[simp] theorem State.withInCore_cmdErr : (s.withInCore f).cmdErr = s.cmdErr := rfl
@[simp] theorem State.withInCore_diag : (s.withInCore f).diag = s.diag := rfl

end withInCore

section withMemReq

variable (r : Option (BitVec 25))

@[simp] theorem State.withMemReq_geom : (s.withMemReq r).geom = s.geom := rfl
@[simp] theorem State.withMemReq_ioW : (s.withMemReq r).ioW = s.ioW := rfl
@[simp] theorem State.withMemReq_cfg : (s.withMemReq r).cfg = s.cfg := rfl
@[simp] theorem State.withMemReq_prog : (s.withMemReq r).prog = s.prog := rfl
@[simp] theorem State.withMemReq_work : (s.withMemReq r).work = s.work := rfl
@[simp] theorem State.withMemReq_sched : (s.withMemReq r).sched = s.sched := rfl
@[simp] theorem State.withMemReq_core : (s.withMemReq r).core = s.core := rfl
@[simp] theorem State.withMemReq_cv : (s.withMemReq r).cv = s.cv := rfl
@[simp] theorem State.withMemReq_inCore : (s.withMemReq r).inCore = s.inCore := rfl
@[simp] theorem State.withMemReq_memReq : (s.withMemReq r).memReq = r := rfl
@[simp] theorem State.withMemReq_ioReq : (s.withMemReq r).ioReq = s.ioReq := rfl
@[simp] theorem State.withMemReq_cmdReq : (s.withMemReq r).cmdReq = s.cmdReq := rfl
@[simp] theorem State.withMemReq_tick : (s.withMemReq r).tick = s.tick := rfl
@[simp] theorem State.withMemReq_mRdata : (s.withMemReq r).mRdata = s.mRdata := rfl
@[simp] theorem State.withMemReq_ioRdata : (s.withMemReq r).ioRdata = s.ioRdata := rfl
@[simp] theorem State.withMemReq_cmdAck : (s.withMemReq r).cmdAck = s.cmdAck := rfl
@[simp] theorem State.withMemReq_cmdErr : (s.withMemReq r).cmdErr = s.cmdErr := rfl
@[simp] theorem State.withMemReq_diag : (s.withMemReq r).diag = s.diag := rfl

end withMemReq

section withIoReq

variable (r : Option IobusWord)

@[simp] theorem State.withIoReq_geom : (s.withIoReq r).geom = s.geom := rfl
@[simp] theorem State.withIoReq_ioW : (s.withIoReq r).ioW = s.ioW := rfl
@[simp] theorem State.withIoReq_cfg : (s.withIoReq r).cfg = s.cfg := rfl
@[simp] theorem State.withIoReq_prog : (s.withIoReq r).prog = s.prog := rfl
@[simp] theorem State.withIoReq_work : (s.withIoReq r).work = s.work := rfl
@[simp] theorem State.withIoReq_sched : (s.withIoReq r).sched = s.sched := rfl
@[simp] theorem State.withIoReq_core : (s.withIoReq r).core = s.core := rfl
@[simp] theorem State.withIoReq_cv : (s.withIoReq r).cv = s.cv := rfl
@[simp] theorem State.withIoReq_inCore : (s.withIoReq r).inCore = s.inCore := rfl
@[simp] theorem State.withIoReq_memReq : (s.withIoReq r).memReq = s.memReq := rfl
@[simp] theorem State.withIoReq_ioReq : (s.withIoReq r).ioReq = r := rfl
@[simp] theorem State.withIoReq_cmdReq : (s.withIoReq r).cmdReq = s.cmdReq := rfl
@[simp] theorem State.withIoReq_tick : (s.withIoReq r).tick = s.tick := rfl
@[simp] theorem State.withIoReq_mRdata : (s.withIoReq r).mRdata = s.mRdata := rfl
@[simp] theorem State.withIoReq_ioRdata : (s.withIoReq r).ioRdata = s.ioRdata := rfl
@[simp] theorem State.withIoReq_cmdAck : (s.withIoReq r).cmdAck = s.cmdAck := rfl
@[simp] theorem State.withIoReq_cmdErr : (s.withIoReq r).cmdErr = s.cmdErr := rfl
@[simp] theorem State.withIoReq_diag : (s.withIoReq r).diag = s.diag := rfl

end withIoReq

section withCmdReq

variable (r : Option (BitVec 2))

@[simp] theorem State.withCmdReq_geom : (s.withCmdReq r).geom = s.geom := rfl
@[simp] theorem State.withCmdReq_ioW : (s.withCmdReq r).ioW = s.ioW := rfl
@[simp] theorem State.withCmdReq_cfg : (s.withCmdReq r).cfg = s.cfg := rfl
@[simp] theorem State.withCmdReq_prog : (s.withCmdReq r).prog = s.prog := rfl
@[simp] theorem State.withCmdReq_work : (s.withCmdReq r).work = s.work := rfl
@[simp] theorem State.withCmdReq_sched : (s.withCmdReq r).sched = s.sched := rfl
@[simp] theorem State.withCmdReq_core : (s.withCmdReq r).core = s.core := rfl
@[simp] theorem State.withCmdReq_cv : (s.withCmdReq r).cv = s.cv := rfl
@[simp] theorem State.withCmdReq_inCore : (s.withCmdReq r).inCore = s.inCore := rfl
@[simp] theorem State.withCmdReq_memReq : (s.withCmdReq r).memReq = s.memReq := rfl
@[simp] theorem State.withCmdReq_ioReq : (s.withCmdReq r).ioReq = s.ioReq := rfl
@[simp] theorem State.withCmdReq_cmdReq : (s.withCmdReq r).cmdReq = r := rfl
@[simp] theorem State.withCmdReq_tick : (s.withCmdReq r).tick = s.tick := rfl
@[simp] theorem State.withCmdReq_mRdata : (s.withCmdReq r).mRdata = s.mRdata := rfl
@[simp] theorem State.withCmdReq_ioRdata : (s.withCmdReq r).ioRdata = s.ioRdata := rfl
@[simp] theorem State.withCmdReq_cmdAck : (s.withCmdReq r).cmdAck = s.cmdAck := rfl
@[simp] theorem State.withCmdReq_cmdErr : (s.withCmdReq r).cmdErr = s.cmdErr := rfl
@[simp] theorem State.withCmdReq_diag : (s.withCmdReq r).diag = s.diag := rfl

end withCmdReq

section withTick

variable (b : Bool)

@[simp] theorem State.withTick_geom : (s.withTick b).geom = s.geom := rfl
@[simp] theorem State.withTick_ioW : (s.withTick b).ioW = s.ioW := rfl
@[simp] theorem State.withTick_cfg : (s.withTick b).cfg = s.cfg := rfl
@[simp] theorem State.withTick_prog : (s.withTick b).prog = s.prog := rfl
@[simp] theorem State.withTick_work : (s.withTick b).work = s.work := rfl
@[simp] theorem State.withTick_sched : (s.withTick b).sched = s.sched := rfl
@[simp] theorem State.withTick_core : (s.withTick b).core = s.core := rfl
@[simp] theorem State.withTick_cv : (s.withTick b).cv = s.cv := rfl
@[simp] theorem State.withTick_inCore : (s.withTick b).inCore = s.inCore := rfl
@[simp] theorem State.withTick_memReq : (s.withTick b).memReq = s.memReq := rfl
@[simp] theorem State.withTick_ioReq : (s.withTick b).ioReq = s.ioReq := rfl
@[simp] theorem State.withTick_cmdReq : (s.withTick b).cmdReq = s.cmdReq := rfl
@[simp] theorem State.withTick_tick : (s.withTick b).tick = b := rfl
@[simp] theorem State.withTick_mRdata : (s.withTick b).mRdata = s.mRdata := rfl
@[simp] theorem State.withTick_ioRdata : (s.withTick b).ioRdata = s.ioRdata := rfl
@[simp] theorem State.withTick_cmdAck : (s.withTick b).cmdAck = s.cmdAck := rfl
@[simp] theorem State.withTick_cmdErr : (s.withTick b).cmdErr = s.cmdErr := rfl
@[simp] theorem State.withTick_diag : (s.withTick b).diag = s.diag := rfl

end withTick

section withMRdata

variable (v : Byte)

@[simp] theorem State.withMRdata_geom : (s.withMRdata v).geom = s.geom := rfl
@[simp] theorem State.withMRdata_ioW : (s.withMRdata v).ioW = s.ioW := rfl
@[simp] theorem State.withMRdata_cfg : (s.withMRdata v).cfg = s.cfg := rfl
@[simp] theorem State.withMRdata_prog : (s.withMRdata v).prog = s.prog := rfl
@[simp] theorem State.withMRdata_work : (s.withMRdata v).work = s.work := rfl
@[simp] theorem State.withMRdata_sched : (s.withMRdata v).sched = s.sched := rfl
@[simp] theorem State.withMRdata_core : (s.withMRdata v).core = s.core := rfl
@[simp] theorem State.withMRdata_cv : (s.withMRdata v).cv = s.cv := rfl
@[simp] theorem State.withMRdata_inCore : (s.withMRdata v).inCore = s.inCore := rfl
@[simp] theorem State.withMRdata_memReq : (s.withMRdata v).memReq = s.memReq := rfl
@[simp] theorem State.withMRdata_ioReq : (s.withMRdata v).ioReq = s.ioReq := rfl
@[simp] theorem State.withMRdata_cmdReq : (s.withMRdata v).cmdReq = s.cmdReq := rfl
@[simp] theorem State.withMRdata_tick : (s.withMRdata v).tick = s.tick := rfl
@[simp] theorem State.withMRdata_mRdata : (s.withMRdata v).mRdata = v := rfl
@[simp] theorem State.withMRdata_ioRdata : (s.withMRdata v).ioRdata = s.ioRdata := rfl
@[simp] theorem State.withMRdata_cmdAck : (s.withMRdata v).cmdAck = s.cmdAck := rfl
@[simp] theorem State.withMRdata_cmdErr : (s.withMRdata v).cmdErr = s.cmdErr := rfl
@[simp] theorem State.withMRdata_diag : (s.withMRdata v).diag = s.diag := rfl

end withMRdata

section withIoRdata

variable (v : IoWord)

@[simp] theorem State.withIoRdata_geom : (s.withIoRdata v).geom = s.geom := rfl
@[simp] theorem State.withIoRdata_ioW : (s.withIoRdata v).ioW = s.ioW := rfl
@[simp] theorem State.withIoRdata_cfg : (s.withIoRdata v).cfg = s.cfg := rfl
@[simp] theorem State.withIoRdata_prog : (s.withIoRdata v).prog = s.prog := rfl
@[simp] theorem State.withIoRdata_work : (s.withIoRdata v).work = s.work := rfl
@[simp] theorem State.withIoRdata_sched : (s.withIoRdata v).sched = s.sched := rfl
@[simp] theorem State.withIoRdata_core : (s.withIoRdata v).core = s.core := rfl
@[simp] theorem State.withIoRdata_cv : (s.withIoRdata v).cv = s.cv := rfl
@[simp] theorem State.withIoRdata_inCore : (s.withIoRdata v).inCore = s.inCore := rfl
@[simp] theorem State.withIoRdata_memReq : (s.withIoRdata v).memReq = s.memReq := rfl
@[simp] theorem State.withIoRdata_ioReq : (s.withIoRdata v).ioReq = s.ioReq := rfl
@[simp] theorem State.withIoRdata_cmdReq : (s.withIoRdata v).cmdReq = s.cmdReq := rfl
@[simp] theorem State.withIoRdata_tick : (s.withIoRdata v).tick = s.tick := rfl
@[simp] theorem State.withIoRdata_mRdata : (s.withIoRdata v).mRdata = s.mRdata := rfl
@[simp] theorem State.withIoRdata_ioRdata : (s.withIoRdata v).ioRdata = v := rfl
@[simp] theorem State.withIoRdata_cmdAck : (s.withIoRdata v).cmdAck = s.cmdAck := rfl
@[simp] theorem State.withIoRdata_cmdErr : (s.withIoRdata v).cmdErr = s.cmdErr := rfl
@[simp] theorem State.withIoRdata_diag : (s.withIoRdata v).diag = s.diag := rfl

end withIoRdata

section withReply

variable (a e : Bool)

@[simp] theorem State.withReply_geom : (s.withReply a e).geom = s.geom := rfl
@[simp] theorem State.withReply_ioW : (s.withReply a e).ioW = s.ioW := rfl
@[simp] theorem State.withReply_cfg : (s.withReply a e).cfg = s.cfg := rfl
@[simp] theorem State.withReply_prog : (s.withReply a e).prog = s.prog := rfl
@[simp] theorem State.withReply_work : (s.withReply a e).work = s.work := rfl
@[simp] theorem State.withReply_sched : (s.withReply a e).sched = s.sched := rfl
@[simp] theorem State.withReply_core : (s.withReply a e).core = s.core := rfl
@[simp] theorem State.withReply_cv : (s.withReply a e).cv = s.cv := rfl
@[simp] theorem State.withReply_inCore : (s.withReply a e).inCore = s.inCore := rfl
@[simp] theorem State.withReply_memReq : (s.withReply a e).memReq = s.memReq := rfl
@[simp] theorem State.withReply_ioReq : (s.withReply a e).ioReq = s.ioReq := rfl
@[simp] theorem State.withReply_cmdReq : (s.withReply a e).cmdReq = s.cmdReq := rfl
@[simp] theorem State.withReply_tick : (s.withReply a e).tick = s.tick := rfl
@[simp] theorem State.withReply_mRdata : (s.withReply a e).mRdata = s.mRdata := rfl
@[simp] theorem State.withReply_ioRdata : (s.withReply a e).ioRdata = s.ioRdata := rfl
@[simp] theorem State.withReply_cmdAck : (s.withReply a e).cmdAck = a := rfl
@[simp] theorem State.withReply_cmdErr : (s.withReply a e).cmdErr = e := rfl
@[simp] theorem State.withReply_diag : (s.withReply a e).diag = s.diag := rfl

end withReply

section emit

variable (r : DiagRecord)

@[simp] theorem State.emit_geom : (s.emit r).geom = s.geom := rfl
@[simp] theorem State.emit_ioW : (s.emit r).ioW = s.ioW := rfl
@[simp] theorem State.emit_cfg : (s.emit r).cfg = s.cfg := rfl
@[simp] theorem State.emit_prog : (s.emit r).prog = s.prog := rfl
@[simp] theorem State.emit_work : (s.emit r).work = s.work := rfl
@[simp] theorem State.emit_sched : (s.emit r).sched = s.sched := rfl
@[simp] theorem State.emit_core : (s.emit r).core = s.core := rfl
@[simp] theorem State.emit_cv : (s.emit r).cv = s.cv := rfl
@[simp] theorem State.emit_inCore : (s.emit r).inCore = s.inCore := rfl
@[simp] theorem State.emit_memReq : (s.emit r).memReq = s.memReq := rfl
@[simp] theorem State.emit_ioReq : (s.emit r).ioReq = s.ioReq := rfl
@[simp] theorem State.emit_cmdReq : (s.emit r).cmdReq = s.cmdReq := rfl
@[simp] theorem State.emit_tick : (s.emit r).tick = s.tick := rfl
@[simp] theorem State.emit_mRdata : (s.emit r).mRdata = s.mRdata := rfl
@[simp] theorem State.emit_ioRdata : (s.emit r).ioRdata = s.ioRdata := rfl
@[simp] theorem State.emit_cmdAck : (s.emit r).cmdAck = s.cmdAck := rfl
@[simp] theorem State.emit_cmdErr : (s.emit r).cmdErr = s.cmdErr := rfl
@[simp] theorem State.emit_diag : (s.emit r).diag = s.diag ++ [r] := rfl

end emit

end Sys2Proof.Machine
end

