-- ==== Sys2Proof/Laws/Bus.lean ====
section
/-! SUPPORT. What the decoder and the bus primitives can do, and the one induction over a computation of bus operations. -/

namespace Sys2Proof.Machine

theorem region_program_iff (g : Geometry) (addr : Addr) : region g addr = .program ↔ addr.toNat < g.progCap := by
  unfold region
  split
  · simp [*]
  · split <;> simp [*]

theorem region_working_iff {g : Geometry} (hg : g.Legal) (addr : Addr) :
    region g addr = .working ↔ g.workBase ≤ addr.toNat ∧ addr.toNat < g.workBase + g.workSize := by
  obtain ⟨h1, -⟩ := hg
  unfold region
  split
  · simp only [reduceCtorEq, false_iff]
    omega
  · split <;> simp [*]

/-- In the Working arm the address is inside the window, whatever the geometry. -/
theorem region_working {g : Geometry} {addr : Addr} (h : region g addr = .working) :
    g.workBase ≤ addr.toNat ∧ addr.toNat < g.workBase + g.workSize := by
  unfold region at h
  split at h
  · cases h
  · split at h
    · assumption
    · cases h

/-- A memory write is silent or stores one byte of WORK: all it can do. -/
theorem busWrite_cases (s : State) (addr : Addr) (v : Byte) :
    (region s.geom addr ≠ .working ∧ busWrite s addr v = s) ∨
    (region s.geom addr = .working ∧
      busWrite s addr v = s.withWork (Memory.write s.work (workOffset s.geom addr) v)) := by
  unfold busWrite
  cases region s.geom addr <;> simp

@[simp] theorem busWrite_geom (s : State) (addr : Addr) (v : Byte) : (busWrite s addr v).geom = s.geom := by
  rcases busWrite_cases s addr v with ⟨-, e⟩ | ⟨-, e⟩ <;> rw [e]
  rfl

/-- A stored byte is read back. -/
theorem busRead_busWrite_self (s : State) {addr : Addr} (v : Byte) (h : region s.geom addr = .working) :
    busRead (busWrite s addr v) addr = v := by
  simp [busWrite, h, busRead]

/-- No other address reads differently after a write. -/
theorem busRead_busWrite_ne (s : State) {addr a : Addr} (v : Byte) (h : a ≠ addr) :
    busRead (busWrite s addr v) a = busRead s a := by
  rcases busWrite_cases s addr v with ⟨-, e⟩ | ⟨hw, e⟩ <;> rw [e]
  unfold busRead
  simp only [State.withWork_geom, State.withWork_prog, State.withWork_work]
  cases hr : region s.geom a with
  | program => rfl
  | unmapped => rfl
  | working =>
    have h1 := region_working hw
    have h2 := region_working hr
    refine Memory.read_write_ne _ _ fun hh => h (BitVec.eq_of_toNat_eq ?_)
    simp only [workOffset] at hh
    omega

/-- A word of the port's width stands on its lines as it is. -/
@[simp] theorem portWord_of_width (v : IoWord) : portWord v.width v = v := by
  obtain ⟨n, v⟩ := v
  simp [portWord]

@[simp] theorem portWord_portWord (n : Nat) (v : IoWord) : portWord n (portWord n v) = portWord n v :=
  portWord_of_width (portWord n v)

theorem portRead_cases (s : State) (port : Addr) :
    (s.cfg.debug = false ∧ portRead s port = s) ∨ (s.cfg.debug = true ∧ portRead s port = s.emit (.ioRead port)) := by
  unfold portRead
  cases s.cfg.debug <;> simp

theorem portWrite_cases (s : State) (port : Addr) (v : IoWord) :
    (s.cfg.debug = false ∧ portWrite s port v = s) ∨
    (s.cfg.debug = true ∧ portWrite s port v = s.emit (.ioWrite port (portWord s.ioW v))) := by
  unfold portWrite
  cases s.cfg.debug <;> simp

/-- What the three writing primitives keep, a whole run of bus operations keeps. -/
theorem runBus_keeps {α : Type} (P : State → Prop) (hw : ∀ s addr v, P s → P (busWrite s addr v))
    (hr : ∀ s port, P s → P (portRead s port)) (ho : ∀ s port v, P s → P (portWrite s port v)) :
    ∀ (p : BusProg α) (s : State), P s → P (runBus p s).2 := by
  intro p
  induction p with
  | done a => exact fun _ h => h
  | memRead addr next ih => exact fun s h => ih _ s h
  | memWrite addr v next ih => exact fun s h => ih _ (hw s addr v h)
  | ioRead port next ih => exact fun s h => ih _ _ (hr s port h)
  | ioWrite port v next ih => exact fun s h => ih _ (ho s port v h)

/-- A run of bus operations writes WORK and the output trace and nothing else. -/
theorem runBus_frame {α : Type} (p : BusProg α) (s : State) :
    ∃ m d, (runBus p s).2 = { s with work := m, diag := d } := by
  refine runBus_keeps (fun t => ∃ m d, t = { s with work := m, diag := d }) ?_ ?_ ?_ p s ⟨s.work, s.diag, rfl⟩
  · rintro t addr v ⟨m, d, rfl⟩
    rcases busWrite_cases { s with work := m, diag := d } addr v with ⟨-, h⟩ | ⟨-, h⟩
    · exact ⟨m, d, h⟩
    · exact ⟨_, d, h⟩
  · rintro t port ⟨m, d, rfl⟩
    rcases portRead_cases { s with work := m, diag := d } port with ⟨-, h⟩ | ⟨-, h⟩
    · exact ⟨m, d, h⟩
    · exact ⟨m, _, h⟩
  · rintro t port v ⟨m, d, rfl⟩
    rcases portWrite_cases { s with work := m, diag := d } port v with ⟨-, h⟩ | ⟨-, h⟩
    · exact ⟨m, d, h⟩
    · exact ⟨m, _, h⟩

/-- A read sees the geometry and the two stores. -/
theorem busRead_congr {s t : State} (hg : s.geom = t.geom) (hp : s.prog = t.prog) (hw : s.work = t.work) (addr : Addr) :
    busRead s addr = busRead t addr := by
  unfold busRead
  rw [hg, hp, hw]

/-- A read-only computation sees nothing but the geometry and the two stores. -/
theorem runReads_congr {α : Type} (p : ReadProg α) {s t : State} (h : ∀ addr, busRead s addr = busRead t addr) :
    runReads p s = runReads p t := by
  induction p with
  | done a => rfl
  | memRead addr next ih =>
    simp only [runReads, h addr]
    exact ih _

/-- A disassembly sees the core, the geometry and the two stores. -/
theorem disasmText_congr (C : CoreFns) {s t : State} (hc : s.core = t.core) (hg : s.geom = t.geom) (hp : s.prog = t.prog)
    (hw : s.work = t.work) : disasmText C s = disasmText C t := by
  unfold disasmText
  rw [hc]
  exact runReads_congr _ (busRead_congr hg hp hw)

end Sys2Proof.Machine
end

