-- ==== Sys2Proof/Laws/Construct.lean ====
section
/-! SUPPORT. What construction can do. -/

namespace Sys2Proof.Machine

/-- An accepted construction had a legal geometry, a firmware that fits and a legal period, and gave this machine. -/
theorem construct_next {g : Geometry} {ioW : Nat} {fw : List Byte} {c : CfgInput} {s : State} (h : construct g ioW fw c = .next s) :
    g.Legal ∧ fw.length ≤ g.progCap ∧ c.periodLegal = true ∧
      s = State.constructed g ioW (settleCfg c) (Memory.ofBytes 0 fw) := by
  unfold construct at h
  by_cases hg : g.wellFormed = true
  · by_cases hf : firmwareFits g fw = true
    · by_cases hp : c.periodLegal = true
      · simp only [hg, hf, hp, if_true, Host.Outcome.next.injEq] at h
        exact ⟨of_decide_eq_true hg, of_decide_eq_true hf, hp, h.symm⟩
      · simp [hg, hf, hp] at h
    · simp [hg, hf] at h
  · simp [hg] at h

end Sys2Proof.Machine
end

