-- ==== Sys2Proof/Laws/Decode.lean ====
section
/-! SUPPORT. The fields of the two bus words: what each decoder field reads from a concatenation, and that every word is one. -/

namespace Sys2Proof

section fields

variable {n m : Nat} (b : BitVec 1) (a : BitVec n) (v : BitVec m)

theorem append_getLsbD_top : (b ++ a ++ v).getLsbD (n + m) = b.getLsbD 0 := by
  have h : ¬ (n + m < m) := by omega
  rw [BitVec.getLsbD_append, BitVec.getLsbD_append, if_neg h, Nat.add_sub_cancel, if_neg (Nat.lt_irrefl n), Nat.sub_self]

theorem append_extract_middle : (b ++ a ++ v).extractLsb' m n = a := by
  apply BitVec.eq_of_getLsbD_eq
  intro i hi
  have h : ¬ (m + i < m) := by omega
  simp [BitVec.getLsbD_append, hi, h]

theorem append_extract_low : (b ++ a ++ v).extractLsb' 0 m = v := by
  apply BitVec.eq_of_getLsbD_eq
  intro i hi
  simp [BitVec.getLsbD_append, hi]

theorem append_select : (b ++ a ++ v).toNat &&& 2 ^ (n + m) = (b.getLsbD 0).toNat * 2 ^ (n + m) := by
  rw [Nat.and_two_pow, BitVec.testBit_toNat, append_getLsbD_top]

theorem exists_append (w : BitVec (1 + n + m)) :
    ∃ (b : BitVec 1) (a : BitVec n) (v : BitVec m), w = b ++ a ++ v := by
  refine ⟨w.extractLsb' (n + m) 1, w.extractLsb' m n, w.extractLsb' 0 m, ?_⟩
  apply BitVec.eq_of_getLsbD_eq
  intro i hi
  simp only [BitVec.getLsbD_append, BitVec.getLsbD_extractLsb']
  split
  · next h => simp [h]
  · split
    · next h1 h2 => simp [h2, show m + (i - m) = i by omega]
    · next h1 h2 => simp [show n + m + (i - m - n) = i by omega, show i - m - n < 1 by omega]

end fields

section membus

variable (we : BitVec 1) (addr : Addr) (value : Byte)

theorem membusWord_we : (membusWord we addr value).getLsbD 24 = we.getLsbD 0 :=
  append_getLsbD_top we addr value

/-- The same in the form simp gives the two bits. -/
@[simp] theorem membusWord_getElem_we : (membusWord we addr value)[24] = we[0] :=
  membusWord_we we addr value

@[simp] theorem membusWord_addr : (membusWord we addr value).extractLsb' 8 16 = addr :=
  append_extract_middle we addr value

@[simp] theorem membusWord_value : (membusWord we addr value).extractLsb' 0 8 = value :=
  append_extract_low we addr value

theorem membusWord_select :
    (membusWord we addr value).toNat &&& 0x1000000 = (we.getLsbD 0).toNat * 0x1000000 :=
  append_select we addr value

/-- Every word of the format is a concatenation of the three fields. -/
theorem exists_membusWord (w : BitVec 25) : ∃ we addr value, w = membusWord we addr value :=
  exists_append (n := 16) (m := 8) w

end membus

section iobus

variable (we : BitVec 1) (port : Addr) (value : IoWord)

@[simp] theorem iobusWord_ioW : (iobusWord we port value).ioW = value.width := rfl

theorem iobusWord_we : (iobusWord we port value).bits.getLsbD (16 + value.width) = we.getLsbD 0 :=
  append_getLsbD_top we port value.bits

theorem iobusWord_port : (iobusWord we port value).bits.extractLsb' value.width 16 = port :=
  append_extract_middle we port value.bits

theorem iobusWord_value : (iobusWord we port value).bits.extractLsb' 0 value.width = value.bits :=
  append_extract_low we port value.bits

theorem iobusWord_select :
    (iobusWord we port value).bits.toNat &&& 2 ^ (16 + value.width) = (we.getLsbD 0).toNat * 2 ^ (16 + value.width) :=
  append_select we port value.bits

/-- What the decoder reads from a concatenation, at any port width. -/
theorem decode_iobusWord : decode (.iobus (iobusWord we port value)) =
    if we.getLsbD 0 then .ioWrite port value else .ioRead port := by
  show (if (iobusWord we port value).bits.getLsbD (16 + value.width) then
      Instr.ioWrite ((iobusWord we port value).bits.extractLsb' value.width 16)
        { width := value.width, bits := (iobusWord we port value).bits.extractLsb' 0 value.width }
    else .ioRead ((iobusWord we port value).bits.extractLsb' value.width 16)) = _
  rw [iobusWord_we, iobusWord_port, iobusWord_value]

/-- Every word of the format is a concatenation of the three fields. -/
theorem exists_iobusWord (w : IobusWord) : ∃ we port value, value.width = w.ioW ∧ w = iobusWord we port value := by
  obtain ⟨n, w⟩ := w
  obtain ⟨b, a, v, h⟩ := exists_append (n := 16) (m := n) w
  exact ⟨b, a, { width := n, bits := v }, rfl, congrArg (IobusWord.mk n) h⟩

end iobus

/-- The write-enable bit is 0 or 1. -/
theorem bit_cases (b : BitVec 1) : b = 0#1 ∨ b = 1#1 := by
  revert b
  decide

end Sys2Proof
end

