-- ==== Sys2Proof/Laws/PerInstr.lean ====
section
/-! SUPPORT. A fact about every operation as syntax: the row of the opcode table that its own word selects. -/

namespace Sys2Proof.Laws

/-- On hardware of every port width for which the operation is well-formed, the opcode-table row of its mnemonic is there, and its word
is that row's under the row's mask. -/
def TableRow.Statement (i : Instr) : Prop :=
  ∀ ioW, i.wellFormed ioW = true → ∃ r ∈ opcodeTable ioW, r.mnemonic = i.mnemonic ∧ r.selects (encode ioW i) = true

/-- A transaction is a row's when its format and its masked bits are the row's. -/
theorem OpcodeRow.selects_of {r : OpcodeRow} {t : Transaction} (hf : t.format = r.format)
    (hb : t.bits &&& r.mask = r.bits) : r.selects t = true := by
  simp [OpcodeRow.selects, hf, hb]

theorem TableRow.memRead (addr : Addr) : TableRow.Statement (.memRead addr) := fun _ _ =>
  ⟨⟨"MEM.READ", .membus, 0x1000000, 0x0000000⟩, by simp [opcodeTable], rfl,
    OpcodeRow.selects_of rfl (membusWord_select 0#1 addr 0#8)⟩

theorem TableRow.memWrite (addr : Addr) (value : Byte) : TableRow.Statement (.memWrite addr value) := fun _ _ =>
  ⟨⟨"MEM.WRITE", .membus, 0x1000000, 0x1000000⟩, by simp [opcodeTable], rfl,
    OpcodeRow.selects_of rfl (membusWord_select 1#1 addr value)⟩

theorem TableRow.ioRead (port : Addr) : TableRow.Statement (.ioRead port) := fun ioW _ =>
  ⟨⟨"IO.READ", .iobus, 2 ^ (16 + ioW), 0⟩, by simp [opcodeTable], rfl,
    OpcodeRow.selects_of rfl ((iobusWord_select 0#1 port ⟨ioW, 0#ioW⟩).trans (Nat.zero_mul _))⟩

theorem TableRow.ioWrite (port : Addr) (value : IoWord) : TableRow.Statement (.ioWrite port value) := fun ioW h =>
  ⟨⟨"IO.WRITE", .iobus, 2 ^ (16 + ioW), 2 ^ (16 + ioW)⟩, by simp [opcodeTable], rfl, by
    have hw : value.width = ioW := of_decide_eq_true h
    subst hw
    exact OpcodeRow.selects_of rfl ((iobusWord_select 1#1 port value).trans (Nat.one_mul _))⟩

theorem TableRow.reset : TableRow.Statement .reset := fun _ _ =>
  ⟨⟨"RESET", .hostcmd, 0x3, 0x0⟩, by simp [opcodeTable], rfl, by
    show OpcodeRow.selects _ (.hostcmd 0b00#2) = true
    decide⟩
theorem TableRow.start : TableRow.Statement .start := fun _ _ =>
  ⟨⟨"START", .hostcmd, 0x3, 0x1⟩, by simp [opcodeTable], rfl, by
    show OpcodeRow.selects _ (.hostcmd 0b01#2) = true
    decide⟩
theorem TableRow.stop : TableRow.Statement .stop := fun _ _ =>
  ⟨⟨"STOP", .hostcmd, 0x3, 0x2⟩, by simp [opcodeTable], rfl, by
    show OpcodeRow.selects _ (.hostcmd 0b10#2) = true
    decide⟩
theorem TableRow.cycle : TableRow.Statement .cycle := fun _ _ =>
  ⟨⟨"CYCLE", .hostcmd, 0x3, 0x3⟩, by simp [opcodeTable], rfl, by
    show OpcodeRow.selects _ (.hostcmd 0b11#2) = true
    decide⟩
theorem TableRow.tick : TableRow.Statement .tick := fun _ _ =>
  ⟨⟨"TICK", .event, 0x1, 0x0⟩, by simp [opcodeTable], rfl, by
    show OpcodeRow.selects _ (.event 0b0#1) = true
    decide⟩
theorem TableRow.fstep : TableRow.Statement .fstep := fun _ _ =>
  ⟨⟨"FSTEP", .event, 0x1, 0x1⟩, by simp [opcodeTable], rfl, by
    show OpcodeRow.selects _ (.event 0b1#1) = true
    decide⟩

end Sys2Proof.Laws
end

