-- ==== Sys2Proof/Laws/Scheduler.lean ====
section
/-! SUPPORT. What `Cycle()`, the driver events and a step can do: one inversion lemma each, for the proofs to cite. -/

namespace Sys2Proof.Machine

theorem logUpcoming_cases (C : CoreFns) (s : State) :
    (s.cfg.debug = false ∧ logUpcoming C s = s) ∨
    (s.cfg.debug = true ∧ logUpcoming C s = s.emit (.disasm (disasmText C s))) := by
  unfold logUpcoming
  cases s.cfg.debug <;> simp

/-- Ending a step writes the halted flag (on a fault only) and the output trace. -/
theorem finishStep_frame (st : Status) (s : State) :
    ∃ k d, finishStep st s = { s with core := k, diag := d } ∧ k.image = s.core.image ∧
      (k.halted = s.core.halted ∨ k.halted = true) := by
  cases st with
  | ok =>
    unfold finishStep
    cases s.cfg.debug
    · exact ⟨s.core, s.diag, rfl, rfl, .inl rfl⟩
    · exact ⟨s.core, _, rfl, rfl, .inl rfl⟩
  | fault info => exact ⟨_, _, rfl, rfl, .inr rfl⟩

/-- A step writes WORK, K and the output trace and nothing else, and never clears the halted flag. -/
theorem cycle_frame (C : CoreFns) (s : State) :
    ∃ m k d, cycle C s = { s with work := m, core := k, diag := d } ∧ (s.core.halted = true → k.halted = true) := by
  obtain ⟨m, d, h⟩ := runBus_frame (C.execute s.core) (logUpcoming C s)
  obtain ⟨k, e, hf, -, hk⟩ := finishStep_frame (runBus (C.execute s.core) (logUpcoming C s)).1.status
    ((runBus (C.execute s.core) (logUpcoming C s)).2.withCore
      (applyResult (runBus (C.execute s.core) (logUpcoming C s)).1 s.core))
  refine ⟨m, k, e, ?_, ?_⟩
  · show finishStep _ _ = _
    rw [hf, h]
    rcases logUpcoming_cases C s with ⟨-, hl⟩ | ⟨-, hl⟩ <;> rw [hl] <;> rfl
  · intro hs
    rcases hk with hk | hk
    · rw [hk, State.withCore_core, applyResult, hs, Bool.true_or]
    · exact hk

/-- A driver event that is enabled halts the scheduler or executes one step. -/
theorem tickOp_cases (C : CoreFns) (s : State) :
    (s.sched ≠ .runPaced ∧ tickOp C s = s) ∨
    (s.sched = .runPaced ∧ haltPred C s = true ∧ tickOp C s = enterHalted s) ∨
    (s.sched = .runPaced ∧ haltPred C s = false ∧ tickOp C s = cycle C s) := by
  unfold tickOp
  cases s.sched <;> cases haltPred C s <;> simp

theorem fstepOp_cases (C : CoreFns) (s : State) :
    (s.sched ≠ .runFree ∧ fstepOp C s = s) ∨
    (s.sched = .runFree ∧ haltPred C s = true ∧ fstepOp C s = (enterHalted s).withReply true false) ∨
    (s.sched = .runFree ∧ haltPred C s = false ∧ fstepOp C s = cycle C s) := by
  unfold fstepOp
  cases s.sched <;> cases haltPred C s <;> simp

theorem startOp_cases (s : State) :
    (s.sched.running = true ∧ startOp s = (s.withCv true).withReply true true) ∨
    (s.sched.running = false ∧ s.cfg.interval = true ∧
      startOp s = ((s.withSched .runPaced).withTick false).withReply true false) ∨
    (s.sched.running = false ∧ s.cfg.interval = false ∧
      startOp s = ((s.withSched .runFree).withTick false).withReply false false) := by
  unfold startOp takeException
  cases s.sched.running <;> cases s.cfg.interval <;> simp

/-- The core's two ports: the memory port's word, else the IO port's, else nothing. -/
theorem busRequest_cases (s : State) :
    (∃ w, s.memReq = some w ∧ busRequest s = some (.membus w, s.withMemReq none)) ∨
    (∃ w, s.memReq = none ∧ s.ioReq = some w ∧ busRequest s = some (.iobus w, s.withIoReq none)) ∨
    (s.memReq = none ∧ s.ioReq = none ∧ busRequest s = none) := by
  unfold busRequest
  cases s.memReq <;> cases s.ioReq <;> simp

/-- Inside a core function one of its bus transactions is taken, or the function is over. -/
theorem arbitrateInCore_cases (f : CoreCall) (s : State) :
    (∃ t s', busRequest s = some (t, s') ∧ mayIssue f (decode t) = true ∧ arbitrateInCore f s = (some t, s')) ∨
    arbitrateInCore f s = (none, s.withInCore none) := by
  unfold arbitrateInCore
  cases busRequest s with
  | none => exact .inr rfl
  | some r =>
    by_cases h : mayIssue f (decode r.1) = true
    · exact .inl ⟨r.1, r.2, rfl, h, by simp [h]⟩
    · exact .inr (by simp [h])

/-- All a boundary can do: go on inside a core function, or, with none in progress, serve a command, a tick or the driver, raise a
tick, or do nothing. -/
theorem arbitrate_cases (s : State) :
    (∃ f, s.inCore = some f ∧ arbitrate s = arbitrateInCore f s) ∨
    (∃ w, s.inCore = none ∧ s.cmdReq = some w ∧ arbitrate s = (some (.hostcmd w), s.withCmdReq none)) ∨
    (s.noRequest ∧ s.tick = true ∧ arbitrate s = (some (.event 0b0#1), s.withTick false)) ∨
    (s.noRequest ∧ s.tick = false ∧ s.sched = .runFree ∧ arbitrate s = (some (.event 0b1#1), s)) ∨
    (s.noRequest ∧ s.tick = false ∧ s.sched = .runPaced ∧ arbitrate s = (none, s.withTick true)) ∨
    (s.noRequest ∧ s.tick = false ∧ (s.sched = .idle ∨ s.sched = .halted) ∧ arbitrate s = (none, s)) := by
  unfold arbitrate State.noRequest
  cases s.inCore with
  | some f => exact .inl ⟨f, rfl, rfl⟩
  | none =>
    cases s.cmdReq with
    | some w => exact .inr (.inl ⟨w, rfl, rfl, rfl⟩)
    | none => cases s.tick <;> cases s.sched <;> simp

/-- A step is an operation served on the state its transaction was taken from, or the timer, or nothing. -/
theorem step_of_some {s s' : State} {t : Transaction} (h : arbitrate s = (some t, s')) : step s = exec (decode t) s' := by
  simp only [step, h]

theorem step_of_none {s s' : State} (h : arbitrate s = (none, s')) : step s = .next s' := by
  simp only [step, h]

end Sys2Proof.Machine
end

