-- ==== Sys2Proof/Laws/Step.lean ====
section
/-! SUPPORT. Runs one step at a time, and what a boundary does where only the timer, a driver or nothing can act. -/

namespace Sys2Proof.Machine

@[simp] theorem run_zero (s : State) : Host.Core.run Sys2Proof.core 0 s = .next s := rfl

theorem coreRun_succ (M : Host.Core) {s t : M.State} (h : M.step s = .next t) (n : Nat) : M.run (n + 1) s = M.run n t := by
  simp only [Host.Core.run, h]

/-- One step more of a run. -/
theorem run_succ_of_step {s t : State} (h : step s = .next t) (n : Nat) :
    Host.Core.run Sys2Proof.core (n + 1) s = Host.Core.run Sys2Proof.core n t :=
  coreRun_succ Sys2Proof.core h n

section boundary

variable (C : CoreFns) {s : State} (h : s.noRequest)
include h

theorem boundary_of_tick (ht : s.tick = true) : boundary C s = tickOp C (s.withTick false) := by
  obtain ⟨h1, h2⟩ := h
  simp only [boundary, arbitrate, h1, h2, ht]
  rfl

theorem boundary_of_runFree (ht : s.tick = false) (hs : s.sched = .runFree) : boundary C s = fstepOp C s := by
  obtain ⟨h1, h2⟩ := h
  simp only [boundary, arbitrate, h1, h2, ht, hs]
  rfl

theorem boundary_of_runPaced (ht : s.tick = false) (hs : s.sched = .runPaced) : boundary C s = s.withTick true := by
  obtain ⟨h1, h2⟩ := h
  simp only [boundary, arbitrate, h1, h2, ht, hs]
  rfl

theorem boundary_of_not_running (ht : s.tick = false) (hs : s.sched.running = false) : boundary C s = s := by
  obtain ⟨h1, h2⟩ := h
  cases hx : s.sched <;> simp_all [boundary, arbitrate, Sched.running]

end boundary

end Sys2Proof.Machine
end

