-- ==== Sys2Proof/Tests/Slice0.lean ====
section
/-! SUPPORT. Tests. Expected values come from spec/95_test_vectors.md (the vector's number stands in the comment) or from the
encodings of spec/30_encoding.md; each runs one operation, two where the vector is a write and a read. The last part shows, for each
obligation with hypotheses, a state and operands that meet them. The cores TOY, FAIL and SPIN are the vectors' own fixtures
(95 section 1.2, 1.3), passed to `serve` as the core argument. -/

namespace Sys2Proof.Tests

open Sys2Proof Sys2Proof.Machine

/-- A port word at `IO_W` = 16. -/
def w16 (v : BitVec 16) : IoWord := ⟨16, v⟩

/-! ## Decoding: words written out bit by bit (30_encoding.md R52 to R55; 95 section 3.1) -/

/-- we 0, address 0x2000, value 0. -/
theorem test_decode_memRead :
    decode (.membus 0b0001000000000000000000000#25) = .memRead 0x2000 := by decide

/-- we 0, address 0xFFFF, value bits ignored. -/
theorem test_decode_memRead_junk :
    decode (.membus 0b0111111111111111111111111#25) = .memRead 0xFFFF := by decide

/-- we 1, address 0x2000, value 0xAA. -/
theorem test_decode_memWrite :
    decode (.membus 0b1001000000000000010101010#25) = .memWrite 0x2000 0xAA := by decide

/-- we 1, address 0xFFFF, value 0x77. -/
theorem test_decode_memWrite_top : decode (.membus 0x1FFFF77#25) = .memWrite 0xFFFF 0x77 := by decide

/-- we 0, port 0x0010, value 0. -/
theorem test_decode_ioRead :
    decode (.iobus ⟨16, 0b000000000000100000000000000000000#33⟩) = .ioRead 0x0010 := by decide

/-- we 1, port 0x0010, value 0x00FF. -/
theorem test_decode_ioWrite :
    decode (.iobus ⟨16, 0b100000000000100000000000011111111#33⟩) = .ioWrite 0x0010 (w16 0x00FF) := by decide

/-- The same operation at `IO_W` = 8: 25 bits, we 1, port 0x0010, value 0xFF; the decoder follows the port's width (R53, R24). -/
theorem test_decode_ioWrite_narrow :
    decode (.iobus ⟨8, 0b1000000000001000011111111#25⟩) = .ioWrite 0x0010 ⟨8, 0xFF⟩ := by decide

theorem test_decode_reset : decode (.hostcmd 0b00#2) = .reset := by decide
theorem test_decode_start : decode (.hostcmd 0b01#2) = .start := by decide
theorem test_decode_stop : decode (.hostcmd 0b10#2) = .stop := by decide
theorem test_decode_cycle : decode (.hostcmd 0b11#2) = .cycle := by decide
theorem test_decode_tick : decode (.event 0b0#1) = .tick := by decide
theorem test_decode_fstep : decode (.event 0b1#1) = .fstep := by decide

/-- The words of 95 section 3.1, as numbers. -/
theorem test_encode_words :
    [Instr.memRead 0x2000, .memWrite 0x2000 0xAA, .memWrite 0xFFFF 0x77, .ioRead 0x0010, .ioWrite 0x0010 (w16 0x00FF),
      .reset, .start, .stop, .cycle, .tick, .fstep].map (fun i => (encode 16 i).bits) =
    [0x0200000, 0x12000AA, 0x1FFFF77, 0x000100000, 0x1001000FF, 0, 1, 2, 3, 0, 1] := by decide

/-- Exact and byte-rounded widths of the opcode table's words. -/
theorem test_table_words :
    decodeTableWord 25 0x12000AA = some (.memWrite 0x2000 0xAA) ∧ decodeTableWord 32 0x12000AA = some (.memWrite 0x2000 0xAA) ∧
    decodeTableWord 33 0x1001000FF = some (.ioWrite 0x0010 (w16 0x00FF)) ∧ decodeTableWord 40 0x000100000 = some (.ioRead 0x0010) ∧
    decodeTableWord 8 2 = some .stop ∧ decodeTableWord 1 1 = some .fstep := by decide

/-- The masks and matches of spec/opcode_table.json, at its width. -/
theorem test_opcode_table : (opcodeTable 16).map (fun r => (r.mask, r.bits)) =
    [(0x1000000, 0x0000000), (0x1000000, 0x1000000), (0x100000000, 0x000000000), (0x100000000, 0x100000000),
      (0x3, 0x0), (0x3, 0x1), (0x3, 0x2), (0x3, 0x3), (0x1, 0x0), (0x1, 0x1)] := by decide

/-! ## WellFormed: each check turns down an ill-formed term and admits its nearest neighbour -/

theorem test_wordFits : Format.wordFits 16 .membus 0x1FFFFFF = true ∧ Format.wordFits 16 .membus 0x2000000 = false ∧
    Format.wordFits 16 .iobus 0x200000000 = false ∧ Format.wordFits 17 .iobus 0x200000000 = true ∧ Format.wordFits 16 .hostcmd 4 = false ∧ Format.wordFits 16 .event 2 = false := by decide

/-- The regions overlap, then the window reaches 0xFFFF, then the largest legal window (R5). -/
theorem test_geometry_wellFormed : Geometry.wellFormed ⟨4, 3, 8⟩ = false ∧ Geometry.wellFormed ⟨0, 1, 0xFFFF⟩ = false ∧
    Geometry.wellFormed ⟨0, 0, 0xFFFF⟩ = true := by decide

theorem test_firmwareFits : firmwareFits ⟨4, 8, 8⟩ [0xA0, 0xA1, 0xA2, 0xA3, 0xA4] = false ∧
    firmwareFits ⟨4, 8, 8⟩ [0xA0, 0xA1, 0xA2, 0xA3] = true := by decide

theorem test_periodLegal : CfgInput.periodLegal ⟨none, none, some 0⟩ = false ∧ CfgInput.periodLegal ⟨none, none, some 1⟩ = true ∧
    CfgInput.periodLegal ⟨none, none, some (2 ^ 32)⟩ = false ∧ CfgInput.periodLegal ⟨none, none, none⟩ = true := by decide

/-- A port word of another width than the port's is no operand there. -/
theorem test_instr_wellFormed : Instr.wellFormed 16 (.memWrite 0xFFFF 0xFF) = true ∧
    Instr.wellFormed 16 (.ioWrite 0x0010 (w16 0x00FF)) = true ∧ Instr.wellFormed 8 (.ioWrite 0x0010 (w16 0x00FF)) = false := by decide

theorem test_decode_stray_bit : decodeTableWord 32 0x2000000 = none ∧ decodeTableWord 8 4 = none ∧ decodeTableWord 7 0 = none := by
  decide

/-! ## Fixtures (95 section 1) -/

def t0 : Geometry := ⟨0x1000, 0x2000, 0xDFFF⟩
def t1 : Geometry := ⟨4, 8, 8⟩

/-- A small state: a geometry, a firmware, the debug and interval bits, a scheduler state and a core state. -/
def st (g : Geometry) (fw : List Byte) (debug interval : Bool) (x : Sched) (k : CoreState) : State :=
  { geom := g, ioW := 16, cfg := { debug := debug, interval := interval, clockSpeed := 10 }, prog := Memory.ofBytes 0 fw, work := []
    sched := x, core := k, cv := false, inCore := none, memReq := none, ioReq := none, cmdReq := none, tick := false
    mRdata := 0, ioRdata := w16 0, cmdAck := false, cmdErr := false, diag := [] }

/-- TOY's reset state: pc 0, not halted. -/
def k0 : CoreState := ⟨0, false⟩

/-- A halted core at pc 0. -/
def kh : CoreState := ⟨0, true⟩

/-- What an outcome's next state shows. -/
def look {α : Type} (f : State → α) : Host.Outcome State Fault Refusal → Option α
  | .next s => some (f s)
  | .fault _ => none
  | .refused _ => none

/-- The byte MEM.READ answers. -/
def rd (addr : Addr) (s : State) : Option Byte := look State.mRdata (exec (.memRead addr) s)

/-- The byte MEM.READ answers after one operation. -/
def rdAfter (i : Instr) (addr : Addr) (s : State) : Option Byte :=
  match exec i s with
  | .next t => rd addr t
  | .fault _ => none
  | .refused _ => none

/-- TOY's mnemonics. -/
def toyName (op : Byte) : Text :=
  match op.toNat with
  | 0x00 => "nop"
  | 0x01 => "st"
  | 0x04 => "in"
  | 0x05 => "out"
  | 0x76 => "hlt"
  | _ => "???"

/-- A 16-bit operand, low byte first, then the rest. -/
def toyWord (at_ : Addr) (k : Addr → BusProg CoreResult) : BusProg CoreResult :=
  .memRead at_ fun lo => .memRead (at_ + 1) fun hi => k (hi ++ lo)

/-- TOY's step, for the opcodes the tests use. -/
def toyExec (k : CoreState) : BusProg CoreResult :=
  let pc : Addr := BitVec.ofNat 16 k.image
  let ok (n : Addr) : BusProg CoreResult := .done ⟨(pc + n).toNat, false, .ok⟩
  .memRead pc fun op =>
    match op.toNat with
    | 0x00 => ok 1
    | 0x01 => toyWord (pc + 1) fun a => .memRead (pc + 3) fun v => .memWrite a v (ok 4)
    | 0x04 => toyWord (pc + 1) fun p => toyWord (pc + 3) fun d => .ioRead p fun x => .memWrite d (x.bits.setWidth 8) (ok 5)
    | 0x05 => toyWord (pc + 1) fun p => .memRead (pc + 3) fun v => .ioWrite p (w16 (v.setWidth 16)) (ok 4)
    | 0x76 => .done ⟨(pc + 1).toNat, true, .ok⟩
    | _ => .done ⟨pc.toNat, false, .fault "unimplemented opcode"⟩

def TOY : CoreFns where
  init _ := k0
  reset _ := .done 0
  execute := toyExec
  disasm k := .memRead (BitVec.ofNat 16 k.image) fun op => .done (toyName op)
  isNop t := t == "nop"

def FAIL : CoreFns where
  init _ := k0
  reset _ := .done 0
  execute k := .done ⟨k.image, false, .fault "boom"⟩
  disasm _ := .done "x"
  isNop _ := false

/-- SPIN's image counts its steps, so that a test can see how many there were. -/
def SPIN : CoreFns where
  init _ := k0
  reset _ := .done 0
  execute k := .done ⟨k.image + 1, false, .ok⟩
  disasm _ := .done "x"
  isNop t := t == "nop"

/-! ## Memory (95 section 3.2) -/

/-- M1 to M7 and M10: the first and last address of every arm, T0 with firmware 3E 01. -/
theorem test_memRead_regions :
    [0x0000, 0x0001, 0x0002, 0x0FFF, 0x1000, 0x1FFF, 0x2000, 0xFFFF].map (fun a => rd a (st t0 [0x3E, 0x01] false true .idle k0)) =
    [some 0x3E, some 0x01, some 0, some 0, some 0, some 0, some 0, some 0] := by decide

/-- T1, the complete read map. -/
theorem test_memRead_t1 :
    [0, 1, 2, 3, 4, 7, 8, 15, 16, 0xFFFF].map (fun a => rd a (st t1 [0xA0, 0xA1, 0xA2, 0xA3] false true .idle k0)) =
    [some 0xA0, some 0xA1, some 0xA2, some 0xA3, some 0, some 0, some 0, some 0, some 0, some 0] := by decide

/-- M8, M9, M10, M11, M13, M19, M20: what a write leaves to be read. -/
theorem test_memWrite_arms :
    [(0x2000, 0xAA), (0xFFFE, 0x88), (0xFFFF, 0x77), (0x0000, 0x55), (0x1800, 0x55), (0x2000, 0x00), (0x3000, 0xFF)].map
      (fun w : Addr × Byte => rdAfter (.memWrite w.1 w.2) w.1 (st t0 [0x3E, 0x01] false true .idle k0)) =
    [some 0xAA, some 0x88, some 0, some 0x3E, some 0, some 0, some 0xFF] := by decide

/-- M14, M9: neighbours are independent, and the last Working byte is at offset 0xDFFE. -/
theorem test_memWrite_offset :
    look State.work (exec (.memWrite 0x2001 2) ((st t0 [] false true .idle k0).withWork [(0, 1)])) = some [(0, 1), (1, 2)] ∧
    look State.work (exec (.memWrite 0xFFFE 0x88) (st t0 [] false true .idle k0)) = some [(0xDFFE, 0x88)] := by decide

/-- The canonical form: storing 0x00 leaves no entry, and a list out of order is not canonical. -/
theorem test_memory_wf :
    Memory.write [(1, 0xAA), (5, 0xBB)] 1 0 = [(5, 0xBB)] ∧ Memory.write [(5, 0xBB)] 1 0xAA = [(1, 0xAA), (5, 0xBB)] ∧
    Memory.wf [(5, 0xBB), (1, 0xAA)] = false ∧ Memory.wf [(1, 0)] = false ∧ Memory.wf State.reset.work = true := by decide

/-! ## Ports (95 section 3.3) -/

/-- I1, I2 without debug; I4 with it. -/
theorem test_ioRead :
    look (fun t => (t.ioRdata, t.diag)) (exec (.ioRead 0xFFFF) (st t0 [] false true .idle k0)) = some (w16 0, []) ∧
    look (fun t => (t.ioRdata, t.diag)) (exec (.ioRead 0x0010) (st t0 [] true true .idle k0)) = some (w16 0, [.ioRead 0x0010]) := by
  decide

/-- I6 without debug; I5 with it. -/
theorem test_ioWrite :
    rdAfter (.ioWrite 0x2000 (w16 0x00AA)) 0x2000 (st t0 [] false true .idle k0) = some 0 ∧
    look State.diag (exec (.ioWrite 0x0010 (w16 0x00FF)) (st t0 [] true true .idle k0)) = some [.ioWrite 0x0010 (w16 0x00FF)] := by decide

/-! ## Scheduler (95 section 3.4) -/

/-- `S`, `K.halted`, `CV` and SPIN's count of steps. -/
def view (s : State) : Sched × Bool × Bool × Nat := (s.sched, s.core.halted, s.cv, s.core.image)

/-- X22, X28, M18: RESET from Halted, with the flags set and a Working byte stored. -/
theorem test_reset : view (serve SPIN .reset ((st t0 [] false true .halted kh).withCv true)) = (.idle, false, true, 0) ∧
    (serve SPIN .reset ((st t0 [] false true .halted kh).withWork [(0, 0xAA)])).work = [] := by decide

/-- X2, X3, X23. -/
theorem test_start_accepted : view (startOp (st t0 [] false true .idle k0)) = (.runPaced, false, false, 0) ∧
    view (startOp (st t0 [] false false .idle k0)) = (.runFree, false, false, 0) ∧
    view (startOp (st t0 [] false true .halted kh)) = (.runPaced, true, false, 0) := by decide

/-- X9, X16, S5: a second START is a contract violation, answered with `cmd_err`. -/
theorem test_start_violates : view (startOp (st t0 [] false true .runPaced k0)) = (.runPaced, false, true, 0) ∧
    view (startOp (st t0 [] false false .runFree k0)) = (.runFree, false, true, 0) ∧
    (startOp (st t0 [] false true .runPaced k0)).cmdErr = true := by decide

/-- X4, X10, X24. -/
theorem test_stop : view (stopOp (st t0 [] false true .idle k0)) = (.halted, true, false, 0) ∧
    view (stopOp ((st t0 [] false true .runPaced k0).withTick true)) = (.halted, true, false, 0) ∧
    (stopOp ((st t0 [] false true .runPaced k0).withTick true)).tick = false := by decide

/-- X5, X11, X25: CYCLE steps in every state. -/
theorem test_cycle : view (serve SPIN .cycle (st t0 [] false true .idle k0)) = (.idle, false, false, 1) ∧
    view (serve SPIN .cycle (st t0 [] false true .runPaced k0)) = (.runPaced, false, false, 1) ∧
    view (serve SPIN .cycle (st t0 [] false true .halted kh)) = (.halted, true, false, 1) := by decide

/-- X6, X12, X13, X21. -/
theorem test_tick : view (serve SPIN .tick (st t0 [] false true .idle k0)) = (.idle, false, false, 0) ∧
    view (serve SPIN .tick (st t0 [] false true .runPaced k0)) = (.runPaced, false, false, 1) ∧
    view (serve SPIN .tick (st t0 [] false true .runPaced kh)) = (.halted, true, false, 0) ∧
    view (serve SPIN .tick (st t0 [] false true .runFree k0)) = (.runFree, false, false, 0) := by decide

/-- X7, X19, X20, X14. -/
theorem test_fstep : view (serve SPIN .fstep (st t0 [] false true .idle k0)) = (.idle, false, false, 0) ∧
    view (serve SPIN .fstep (st t0 [] false false .runFree k0)) = (.runFree, false, false, 1) ∧
    view (serve SPIN .fstep (st t0 [] false false .runFree kh)) = (.halted, true, false, 0) ∧
    view (serve SPIN .fstep (st t0 [] false true .runPaced k0)) = (.runPaced, false, false, 0) := by decide

/-- X29, P6: a nop at pc halts a driver and is not executed. X30: the host can execute it. -/
theorem test_tick_nop : view (serve TOY .tick (st t0 [0x00] false true .runPaced k0)) = (.halted, false, false, 0) ∧
    view (serve TOY .fstep (st t0 [0x00] false false .runFree k0)) = (.halted, false, false, 0) ∧
    view (serve TOY .cycle (st t0 [0x00] false true .idle k0)) = (.idle, false, false, 1) := by decide

/-! ## `Cycle()` and diagnostics (95 section 3.5) -/

/-- What a TOY step leaves: the store, `K`, and the records. -/
def ran (debug : Bool) (fw : List Byte) : Memory × CoreState × List DiagRecord :=
  let t := cycle TOY (st t0 fw debug true .idle k0)
  (t.work, t.core, t.diag)

/-- Y1, Y2. -/
theorem test_cycle_store : ran false [0x01, 0x00, 0x20, 0xAA] = ([(0, 0xAA)], ⟨4, false⟩, []) ∧
    ran true [0x01, 0x00, 0x20, 0xAA] = ([(0, 0xAA)], ⟨4, false⟩, [.disasm "st", .stateDump ⟨4, false⟩]) := by decide

/-- Y3, Y4: no dump after a fault, the Error record whatever the debug mode. -/
theorem test_cycle_fault : ran false [0xFF] = ([], ⟨0, true⟩, [.error "unimplemented opcode"]) ∧
    ran true [0xFF] = ([], ⟨0, true⟩, [.disasm "???", .error "unimplemented opcode"]) := by decide

/-- Y5, Y6: the port's record stands between the step's two. -/
theorem test_cycle_ports :
    ran true [0x05, 0x34, 0x12, 0x99] = ([], ⟨4, false⟩, [.disasm "out", .ioWrite 0x1234 (w16 0x0099), .stateDump ⟨4, false⟩]) ∧
    ran true [0x04, 0x34, 0x12, 0x02, 0x20] = ([], ⟨5, false⟩, [.disasm "in", .ioRead 0x1234, .stateDump ⟨5, false⟩]) := by decide

/-- The bus operations of Y1, in order. -/
theorem test_cycle_bus_order :
    busTrace (toyExec k0) (st t0 [0x01, 0x00, 0x20, 0xAA] false true .idle k0) =
    [.memRead 0, .memRead 1, .memRead 2, .memRead 3, .memWrite 0x2000 0xAA] := by decide

/-- P5's third step: the stored hlt is fetched from the Working region and sets the core's own flag. -/
theorem test_fetch_coherent :
    (serve TOY .fstep ((st t0 [] false false .runFree ⟨0x2000, false⟩).withWork [(0, 0x76)])).core = ⟨0x2001, true⟩ := by decide

/-! ## Exceptions (95 section 3.6) and construction -/

/-- E1 and the exception codes (60_exceptions.md R120). -/
theorem test_construct_too_large :
    construct t1 16 [1, 2, 3, 4, 5] ⟨none, none, none⟩ = .fault .firmwareTooLarge ∧ Fault.code .firmwareTooLarge = 1 ∧
    Exception.code (some .contractViolation) = 2 ∧ Exception.code (some (.executionFault "boom")) = 3 ∧ Exception.code none = 0 :=
  ⟨rfl, rfl, rfl, rfl, rfl⟩

/-- E2, E3: accepted, and MEM.READ finds the firmware, or zeros. -/
theorem test_construct_accepted :
    look State.prog (construct t1 16 [0xA0, 0xA1, 0xA2, 0xA3] ⟨none, none, none⟩) = some [(0, 0xA0), (1, 0xA1), (2, 0xA2), (3, 0xA3)] ∧
    look State.prog (construct t1 16 [] ⟨none, none, none⟩) = some [] := ⟨rfl, rfl⟩

/-- E4, and a geometry R5 does not admit. -/
theorem test_construct_refused :
    construct t1 16 [] ⟨none, none, some 0⟩ = .refused .clockSpeedOutOfRange ∧
    construct ⟨4, 3, 8⟩ 16 [] ⟨none, none, none⟩ = .refused .geometryNotAdmitted := ⟨rfl, rfl⟩

/-- E7: two failed host cycles in Idle, two Error records, the flag set and never an error to the host. -/
theorem test_cycle_fails_twice :
    (boundaries FAIL 1 ((serve FAIL .cycle (st t0 [] false true .idle k0)).withCmdReq (some 3))).diag =
      [.error "boom", .error "boom"] ∧
    view (serve FAIL .cycle (st t0 [] false true .idle k0)) = (.idle, true, false, 0) ∧
    (serve FAIL .cycle (st t0 [] false true .idle k0)).cmdErr = false := by decide

/-- E8, M7: the status port after construction (D9). -/
theorem test_status_lines :
    (st t0 [] false true .runPaced k0).statusLines = ⟨0b01, true, false, false, true, 10, false⟩ ∧
    (st t0 [] true true .halted kh).statusLines = ⟨0b11, false, false, true, false, 10, true⟩ := by decide

/-! ## Witnesses: for each obligation with hypotheses, values that meet them -/

theorem witness_DecodeOfEncodeIsTheOperation : (Instr.memWrite 0x2000 0xAA).wellFormed 16 = true ∧
    (Instr.ioWrite 0x0010 ⟨9, 0x1FF⟩).wellFormed 9 = true := by decide

/-- Words on the ports of hardware of a width, for the two statements over them. -/
theorem witness_EncodeOfDecodeIsTheWord : (Transaction.iobus ⟨9, 0x3FFFFFF⟩).onPorts 9 = true ∧
    (Transaction.membus 0x0FFFFFF).onPorts 9 = true := by decide

/-- Both clauses, at the boundary of the width. -/
theorem witness_TableWordsWithStrayBitsAreRejected :
    formatOfBits 16 32 = some .membus ∧ 0x1FFFFFF < 2 ^ Format.membus.width 16 ∧ 2 ^ Format.membus.width 16 ≤ 0x2000000 := by decide

/-- A state inside a core function. -/
def inside (f : CoreCall) : State := (st t0 [] false true .runPaced k0).withInCore (some f)

/-- The eight clauses of the step. -/
theorem witness_StepServesTheDecodedOperation :
    ((inside .disasm).inCore = some .disasm ∧ ((inside .disasm).withMemReq (some 0)).memReq = some 0 ∧
      mayIssue .disasm (decode (.membus 0)) = true) ∧
    (((inside .execute).withIoReq (some ⟨16, 0⟩)).memReq = none ∧ ((inside .execute).withIoReq (some ⟨16, 0⟩)).ioReq = some ⟨16, 0⟩ ∧
      mayIssue .execute (decode (.iobus ⟨16, 0⟩)) = true) ∧
    ((inside .execute).inCore = some .execute ∧ (inside .execute).memReq = none ∧ (inside .execute).ioReq = none) ∧
    (((st t0 [] false true .idle k0).withCmdReq (some 3)).inCore = none ∧
      ((st t0 [] false true .idle k0).withCmdReq (some 3)).cmdReq = some 3) ∧
    (((st t0 [] false true .runPaced k0).withTick true).noRequest ∧ ((st t0 [] false true .runPaced k0).withTick true).tick = true) ∧
    (∀ x, (st t0 [] false true x k0).noRequest ∧ (st t0 [] false true x k0).tick = false ∧ (st t0 [] false true x k0).sched = x) ∧
    Sched.running .idle = false ∧ Sched.running .halted = false :=
  ⟨⟨rfl, rfl, by decide⟩, ⟨rfl, rfl, by decide⟩, ⟨rfl, rfl, rfl⟩, ⟨rfl, rfl⟩, ⟨⟨rfl, rfl⟩, rfl⟩,
    fun _ => ⟨⟨rfl, rfl⟩, rfl, rfl⟩, rfl, rfl⟩

/-- R31: a port transaction standing on the line in Idle is not served; the same one is, inside `CoreExecute`. -/
theorem test_bus_outside_core :
    look State.mRdata (step ((st t1 [0xA0] false true .idle k0).withMemReq (some 0))) = some 0 ∧
    look State.mRdata (step (((st t1 [0xA0] false true .idle k0).withInCore (some .execute)).withMemReq (some 0))) = some 0xA0 := by
  decide

/-- R16 (b): inside `CoreDisasm` a write is not served. -/
theorem test_disasm_writes_nothing :
    look State.work (step ((inside .disasm).withMemReq (some 0x12000AA))) = some [] ∧
    look State.work (step ((inside .execute).withMemReq (some 0x12000AA))) = some [(0, 0xAA)] := by decide

/-- The core silent and a memory word on the line; and inside `CoreDisasm` a MEM.READ presented, and a MEM.WRITE. -/
theorem witness_BusPortsAreDeafOutsideTheCore :
    ((st t0 [] false true .idle k0).withMemReq (some 0x12000AA)).inCore = none ∧
    (((inside .disasm).withMemReq (some 0x0200000)).inCore = some .disasm ∧
      decode (.membus 0x0200000#25) = .memRead 0x2000#16) ∧
    (((inside .disasm).withMemReq (some 0x12000AA)).inCore = some .disasm ∧
      decode (.membus 0x12000AA#25) = .memWrite 0x2000#16 0xAA#8) := by decide

theorem witness_CommandsWaitForTheCoreFunction : (inside .execute).inCore ≠ none := by decide

/-- A quiet state and its step, and an accepted construction. -/
theorem witness_CorePortsStayQuiet : (st t0 [] false true .runPaced k0).busQuiet ∧
    step (st t0 [] false true .runPaced k0) = .next ((st t0 [] false true .runPaced k0).withTick true) ∧
    ∃ s, construct t1 16 [] ⟨none, none, none⟩ = .next s := ⟨⟨rfl, rfl, rfl⟩, rfl, _, rfl⟩

/-- On hardware of any port width: a word of that width, and a wider one. -/
theorem witness_IoWriteDiscardsItsWord : (w16 0x1FF).width = (st t0 [] true true .idle k0).ioW ∧
    portWord 8 (w16 0x1FF) = ⟨8, 0xFF⟩ ∧ portWord 16 (w16 0x1FF) = w16 0x1FF := by decide

/-- A port of another width: the answer has it, and the record too. -/
theorem test_io_other_width :
    look State.ioRdata (exec (.ioRead 7) { st t0 [] true true .idle k0 with ioW := 24 }) = some ⟨24, 0⟩ ∧
    look State.diag (exec (.ioWrite 7 ⟨24, 0xABCDEF⟩) { st t0 [] true true .idle k0 with ioW := 24 }) =
      some [.ioWrite 7 ⟨24, 0xABCDEF⟩] := by decide

/-- Both branches of the conclusion. -/
theorem witness_PlacedWordIsServedNext :
    decodeWordAt 24 32 0x12000AA = some (.memWrite 0x2000 0xAA) ∧ decodeWordAt 16 1 1 = some .fstep := by decide

/-- A legal geometry, and an address at each end of each region. -/
theorem witness_RegionMapOfEveryLegalGeometry : t0.Legal ∧
    [0x0000, 0x0FFF, 0x1000, 0x1FFF, 0x2000, 0xFFFE, 0xFFFF].map (region t0) =
    [.program, .program, .unmapped, .unmapped, .working, .working, .unmapped] := by decide

theorem witness_OffsetsIndexExistingBytes : region t0 0xFFFE = .working ∧ workOffset t0 0xFFFE = 0xDFFE ∧
    region t0 0x0FFF = .program := by decide

/-- Both clauses on where the store goes, and an address beside it. -/
theorem witness_MemWriteChangesOneByteAtMost : region t1 8 = .working ∧ region t1 7 ≠ .working ∧ (9 : Addr) ≠ 8 := by decide

/-- An accepted construction. -/
theorem witness_ProgramBytesReadAsLoaded :
    ∃ s, construct t1 16 [0xA0, 0xA1] ⟨none, none, none⟩ = .next s ∧ (3 : Addr).toNat < t1.progCap := ⟨_, rfl, by decide⟩

/-- An accepted construction, a Working address, and another address. -/
theorem witness_WorkingReadGivesTheLatestWrite :
    (∃ s, construct t1 16 [0xA0] ⟨none, none, none⟩ = .next s ∧ region t1 8 = .working) ∧
    region (st t1 [] false true .idle k0).geom 15 = .working ∧ (14 : Addr) ≠ 15 := ⟨⟨_, rfl, by decide⟩, by decide, by decide⟩

/-- The hole's two ends and the top. -/
theorem witness_UnmappedReadsZeroAndDiscards : t0.Legal ∧ (t0.progCap ≤ (0x1000 : Addr).toNat ∧ (0x1FFF : Addr).toNat < t0.workBase) ∧
    t0.workBase + t0.workSize ≤ (0xFFFF : Addr).toNat := by decide

/-- Operations between two reads of 0x2000, none of which writes it; and an unmapped address. -/
theorem witness_ReadsAreIdempotent :
    (∀ i ∈ Claims.trace [.memRead 0x2000, .memWrite 0x2001 1, .stop, .ioWrite 0x2000 (w16 1), .start] (st t0 [] false true .idle k0),
      i ≠ .reset ∧ ∀ v, i ≠ .memWrite 0x2000 v) ∧ region t0 0xFFFF ≠ .working := by
  refine ⟨?_, by decide⟩
  rw [show Claims.trace [.memRead 0x2000, .memWrite 0x2001 1, .stop, .ioWrite 0x2000 (w16 1), .start] (st t0 [] false true .idle k0) =
    [.memRead 0x2000, .memWrite 0x2001 1, .stop, .ioWrite 0x2000 (w16 1), .start] by decide]
  intro i hi
  simp only [List.mem_cons, List.not_mem_nil, or_false] at hi
  rcases hi with rfl | rfl | rfl | rfl | rfl <;> simp

theorem witness_DisassemblySeesTheStoredByte :
    region t0 0x2000 = .working ∧ ∃ rest, TOY.disasm ⟨0x2000, false⟩ = .memRead 0x2000 rest := ⟨by decide, _, rfl⟩

theorem witness_ResetTwiceIsResetOnce : ∀ s, coreReset TOY (serve TOY .reset s) = (serve TOY .reset s).core := fun _ => rfl

/-- Both clauses, in all four scheduler states. -/
theorem witness_StartSelectsADriverOrViolates :
    ∀ x, (st t0 [] false true x k0).sched = x := fun _ => rfl

theorem witness_NothingExecutesAfterStop : ∃ s : State, s.inCore = none ∧ s.cmdReq = some 0b10#2 ∧ s.tick = true :=
  ⟨((st t0 [] false true .runPaced k0).withTick true).withCmdReq (some 2), rfl, rfl, rfl⟩

/-- The equation only names the step's result; for the two cases of `match` see `test_cycle_store` and `test_cycle_fault`. -/
theorem witness_CycleIsOneExecuteStep (s : State) : ∃ r s1, runBus (Config.core.execute s.core)
    (if s.cfg.debug then s.emit (.disasm (runReads (Config.core.disasm s.core) s)) else s) = (r, s1) := ⟨_, _, rfl⟩

/-- Both clauses; for the two branches of the predicate see `test_tick` and `test_tick_nop`. -/
theorem witness_TickHaltsOrExecutesOneStep : (st t0 [] false true .runPaced kh).sched = .runPaced ∧
    (st t0 [] false true .idle k0).sched ≠ .runPaced := by decide

theorem witness_FstepHaltsOrExecutesOneStep : (st t0 [] false false .runFree kh).sched = .runFree ∧
    (st t0 [] false true .idle k0).sched ≠ .runFree := by decide

/-- Both events where they are not enabled. -/
theorem witness_TransitionTableHolds : (st t0 [] false true .idle k0).sched ≠ .runPaced ∧
    (st t0 [] false true .runPaced k0).sched ≠ .runFree := by decide

/-- By the nop and by the flag, in both running states. -/
theorem witness_HaltingInstructionIsNeverExecuted : haltPred TOY (st t0 [0x00] false true .runPaced k0) = true ∧
    haltPred TOY (st t0 [0x00] false false .runFree k0) = true ∧ haltPred TOY (st t0 [0xFF] false true .runPaced kh) = true ∧
    haltPred TOY (st t0 [0xFF] false true .runPaced k0) = false := by decide

/-- A command that keeps the timer armed and one that does not. -/
theorem witness_PendingTickSurvivesOnlyInRunPaced : ∀ c : BitVec 2, ∃ s : State,
    s.inCore = none ∧ s.cmdReq = some c ∧ s.tick = true ∧ s.sched = .runPaced :=
  fun c => ⟨((st t0 [] false true .runPaced k0).withTick true).withCmdReq (some c), rfl, rfl, rfl, rfl⟩

theorem witness_NoDriverNothingHappens : ∀ x, x = .idle ∨ x = .halted → (st t0 [] false true x k0).noRequest ∧
    (st t0 [] false true x k0).tick = false ∧ ((st t0 [] false true x k0).sched = .idle ∨ (st t0 [] false true x k0).sched = .halted) :=
  fun _ h => ⟨⟨rfl, rfl⟩, rfl, h⟩

theorem witness_DriverEventsAreServed : (st t0 [] false false .runFree k0).noRequest ∧ (st t0 [] false false .runFree k0).tick = false ∧
    (st t0 [] false false .runFree k0).sched = .runFree ∧ (st t0 [] false true .runPaced k0).sched = .runPaced :=
  ⟨⟨rfl, rfl⟩, rfl, rfl, rfl⟩

/-- In both modes. -/
theorem witness_StartWithTheFlagSetEndsAtOnce : ∀ b, (st t0 [] false b .halted kh).noRequest ∧
    (st t0 [] false b .halted kh).sched = .halted ∧ (st t0 [] false b .halted kh).core.halted = true ∧
    (st t0 [] false b .halted kh).cfg.interval = b := fun _ => ⟨⟨rfl, rfl⟩, rfl, rfl, rfl⟩

/-- P6: a single nop at TOY's reset vector. -/
theorem witness_NopAtTheResetVectorHaltsAtOnce : (st t0 [0x00] false false .idle ⟨7, true⟩).noRequest ∧
    TOY.isNop (disasmText TOY (serve TOY .reset (st t0 [0x00] false false .idle ⟨7, true⟩))) = true := by
  refine ⟨⟨rfl, rfl⟩, ?_⟩
  decide

/-- An address Y1 does not store to, in the window, and one outside it. -/
theorem witness_StepChangesOnlyTheBytesItStores :
    (∀ v, Instr.memWrite 0x2001 v ∉ busTrace (TOY.execute k0) (logUpcoming TOY (st t0 [0x01, 0x00, 0x20, 0xAA] false true .idle k0))) ∧
    region t0 0x1000 ≠ .working := by
  refine ⟨fun v h => ?_, by decide⟩
  rw [show busTrace (TOY.execute k0) (logUpcoming TOY (st t0 [0x01, 0x00, 0x20, 0xAA] false true .idle k0)) =
    [.memRead 0, .memRead 1, .memRead 2, .memRead 3, .memWrite 0x2000 0xAA] by decide] at h
  simp at h

theorem witness_ExecutionFaultForcesHaltedWithoutRollback : ∃ r s1,
    runBus (FAIL.execute k0) (logUpcoming FAIL (st t0 [] false true .idle k0)) = (r, s1) ∧ r.status = .fault "boom" := ⟨_, _, rfl, rfl⟩

/-- S7: FAIL, in both modes. -/
theorem witness_AlwaysFailingCoreIsReportedOnce :
    (∀ (k : CoreState) (σ : State), ∃ info, (runBus (FAIL.execute k) σ).1.status = .fault info) ∧
    (∀ text, FAIL.isNop text = false) ∧
    (∀ x, (st t0 [] false true x k0).noRequest ∧ (st t0 [] false true x k0).core.halted = false ∧ (st t0 [] false true x k0).sched = x) ∧
    Sched.running .runPaced = true ∧ Sched.running .runFree = true :=
  ⟨fun _ _ => ⟨_, rfl⟩, fun _ => rfl, fun _ => ⟨⟨rfl, rfl⟩, rfl, rfl⟩, rfl, rfl⟩

theorem witness_OnlyResetClearsTheHaltedFlag : (Instr.memRead 0 ≠ .reset) ∧ (st t0 [] false true .halted kh).core.halted = true := by
  decide

theorem witness_ContractViolationFlagIsSticky : ∃ s, construct t1 16 [] ⟨none, none, none⟩ = .next s := ⟨_, rfl⟩

theorem witness_StepsKeepWhatConstructionFixed :
    step (st t0 [] false true .idle k0) = .next (st t0 [] false true .idle k0) ∧
    ((st t0 [] false true .idle k0).withCv true).cv = true := ⟨rfl, rfl⟩

theorem witness_WritersOfMemoryAndCore :
    look State.work (exec (.memWrite 0x2000 1) (st t0 [] false true .idle k0)) = some [(0, 1)] ∧
    look State.core (exec .stop (st t0 [] false true .idle k0)) = some kh := by decide

/-- FSTEP leaving RunFree, FSTEP keeping it, and TICK keeping RunPaced. -/
theorem witness_OperationsDriveOnlyTheirOwnLines : (serve SPIN .fstep (st t0 [] false false .runFree kh)).sched = .halted ∧
    (serve SPIN .fstep (st t0 [] false false .runFree k0)).sched = .runFree ∧
    (serve SPIN .tick (st t0 [] false true .runPaced k0)).sched = .runPaced := by decide

theorem witness_DebugModeChangesNoBehaviour : st t0 [] true true .idle k0 ≠ st t0 [] false true .idle k0 ∧
    (st t0 [] true true .idle k0).silenced = (st t0 [] false true .idle k0).silenced := by decide

theorem witness_EveryStepKeepsTheInvariant : (st t0 [0x3E] false true .runPaced k0).Inv ∧
    step (st t0 [0x3E] false true .runPaced k0) = .next ((st t0 [0x3E] false true .runPaced k0).withTick true) :=
  ⟨⟨by decide, by decide, by decide, by decide, by decide, by decide, by decide, by decide, fun _ h => by cases h⟩, rfl⟩

theorem witness_ConstructionEstablishesTheInvariant : ∃ s, construct t1 16 [0xA0] ⟨some true, some false, some 1⟩ = .next s := ⟨_, rfl⟩

/-- Its four hypotheses: the firmware one byte too long, exactly full, a period of 0, a period of 1. -/
theorem witness_ConstructionLoadsAndInitialises : t1.Legal ∧ t1.progCap < [1, 2, 3, 4, 5].length ∧ [1, 2, 3, 4].length ≤ t1.progCap ∧
    (0 : Int) < 1 ∧ CfgInput.periodLegal ⟨none, none, some 1⟩ = true := by decide

end Sys2Proof.Tests
end

section
/-! PROOFS of the scope family (00_scope.md): what construction accepts, and the values of the reset machine. -/

namespace Sys2Proof

/-- The proofs that a `LegalGeometry` carries are R5's constraints on its numbers. -/
theorem LegalGeometry.toGeometry_legal (g : LegalGeometry) : g.toGeometry.Legal := ⟨g.disjoint, g.below_top⟩

namespace Machine

/-- R150, the converse of `construct_next`: a legal geometry, a firmware that fits and a legal period are all that construction
asks for. -/
theorem construct_eq_next {g : Geometry} {fw : List Byte} {c : CfgInput} (hg : g.Legal) (hf : fw.length ≤ g.progCap)
    (hp : c.periodLegal = true) (ioW : Nat) :
    construct g ioW fw c = .next (State.constructed g ioW (settleCfg c) (Memory.ofBytes 0 fw)) := by
  have hg' : g.wellFormed = true := decide_eq_true hg
  have hf' : firmwareFits g fw = true := decide_eq_true hf
  simp only [construct, hg', hf', hp, if_true]

/-- R6: with every field omitted, the configuration is the default one. -/
theorem settleCfg_omitted : settleCfg ⟨none, none, none⟩ = Cfg.default := rfl

/-- R13, R150: every byte of the Working region is 0x00 right after construction. -/
theorem State.constructed_work_read (g : Geometry) (ioW : Nat) (c : Cfg) (prog : Memory) (i : Nat) :
    Memory.read (State.constructed g ioW c prog).work i = 0x00#8 := Memory.read_nil i

/-- On a legal geometry, with no firmware and every configuration field omitted, construction gives the default machine of that
geometry and port width. -/
theorem construct_empty_omitted {g : Geometry} (hg : g.Legal) (ioW : Nat) :
    construct g ioW [] ⟨none, none, none⟩ = .next (State.constructed g ioW Cfg.default []) := by
  have hp : CfgInput.periodLegal ⟨none, none, none⟩ = true := by decide
  rw [construct_eq_next hg (Nat.zero_le _) hp, settleCfg_omitted, Memory.ofBytes]

/-- Settles O51: each register of the reset machine is the field that `State.constructed` sets, and the free geometry is legal by its
type, so construction accepts it whatever it is. -/
theorem resetMachineHasTheSpecsValues : Obligations.ResetMachineHasTheSpecsValues := by
  have hwork : ∀ i, Memory.read State.reset.work i = 0x00#8 := State.constructed_work_read _ _ _ _
  have hmade : construct Config.geometry.toGeometry 16 [] ⟨none, none, none⟩ = .next State.reset :=
    construct_empty_omitted Config.geometry.toGeometry_legal Config.ioWidth
  exact ⟨rfl, rfl, hwork, rfl, rfl, hmade⟩

end Machine
end Sys2Proof
end

section
/-! PROOFS of the state family (10_state.md): the laws of the operations on this machine's core, as `serve` and `boundary` say them. -/

namespace Sys2Proof.Machine

/-- Every operation ends in a next state: what it does around any core, on this machine's core. -/
theorem exec_eq_serve (i : Instr) (s : State) : exec i s = .next (serve Config.core i s) := by
  cases i <;> rfl

/-- A boundary that chose an operation serves it on the state the choice left. -/
theorem boundary_of_some (C : CoreFns) {s s' : State} {t : Transaction} (h : arbitrate s = (some t, s')) :
    boundary C s = serve C (decode t) s' := by
  simp only [boundary, h]

/-- A boundary that chose none ends where the choice left the state. -/
theorem boundary_of_none (C : CoreFns) {s s' : State} (h : arbitrate s = (none, s')) : boundary C s = s' := by
  simp only [boundary, h]

/-- Every step ends in a next state: the boundary around this machine's core. -/
theorem step_eq_boundary (s : State) : step s = .next (boundary Config.core s) := by
  rcases h : arbitrate s with ⟨choice, s'⟩
  cases choice with
  | none => rw [step_of_none h, boundary_of_none Config.core h]
  | some t => rw [step_of_some h, boundary_of_some Config.core h, exec_eq_serve]

/-- A boundary serves what it chose on the state the choice left, or ends there. -/
theorem boundary_cases (C : CoreFns) (s : State) :
    boundary C s = (arbitrate s).2 ∨ ∃ i, boundary C s = serve C i (arbitrate s).2 := by
  rcases h : arbitrate s with ⟨choice, s'⟩
  cases choice with
  | none => exact .inl (boundary_of_none C h)
  | some t => exact .inr ⟨decode t, boundary_of_some C h⟩

/-- All that going on inside a core function writes: one of the two port lines, or the mark of the function in progress. -/
theorem arbitrateInCore_state (f : CoreCall) (s : State) :
    (arbitrateInCore f s).2 = s.withMemReq none ∨ (arbitrateInCore f s).2 = s.withIoReq none ∨
      (arbitrateInCore f s).2 = s.withInCore none := by
  rcases arbitrateInCore_cases f s with ⟨t, s', hb, -, e⟩ | e <;> rw [e]
  · rcases busRequest_cases s with ⟨w, -, e'⟩ | ⟨w, -, -, e'⟩ | ⟨-, -, e'⟩ <;> rw [e'] at hb <;> cases hb
    · exact .inl rfl
    · exact .inr (.inl rfl)
  · exact .inr (.inr rfl)

/-! The frames of the bus primitives: a write touches WORK at most, a port operation the output trace at most. -/

theorem busWrite_frame (s : State) (addr : Addr) (v : Byte) : ∃ m, busWrite s addr v = s.withWork m := by
  rcases busWrite_cases s addr v with ⟨-, e⟩ | ⟨-, e⟩
  · exact ⟨s.work, e⟩
  · exact ⟨_, e⟩

theorem portRead_frame (s : State) (port : Addr) : ∃ d, portRead s port = { s with diag := d } := by
  rcases portRead_cases s port with ⟨-, e⟩ | ⟨-, e⟩
  · exact ⟨s.diag, e⟩
  · exact ⟨_, e⟩

theorem portWrite_frame (s : State) (port : Addr) (v : IoWord) : ∃ d, portWrite s port v = { s with diag := d } := by
  rcases portWrite_cases s port v with ⟨-, e⟩ | ⟨-, e⟩
  · exact ⟨s.diag, e⟩
  · exact ⟨_, e⟩

end Sys2Proof.Machine
end

section
/-! PROOFS of the state family: R25, the invariant. What each setter asks for to keep it, then each operation, then the boundary. -/

namespace Sys2Proof.Machine

namespace State.Inv

variable {s : State} (h : s.Inv)
include h

/-! Setters of a field that the invariant does not read. -/

theorem withCore (k : CoreState) : (s.withCore k).Inv := { h with }
theorem withCv (b : Bool) : (s.withCv b).Inv := { h with }
theorem withInCore (f : Option CoreCall) : (s.withInCore f).Inv := { h with }
theorem withMemReq (r : Option (BitVec 25)) : (s.withMemReq r).Inv := { h with }
theorem withCmdReq (r : Option (BitVec 2)) : (s.withCmdReq r).Inv := { h with }
theorem withMRdata (v : Byte) : (s.withMRdata v).Inv := { h with }
theorem withReply (ack err : Bool) : (s.withReply ack err).Inv := { h with }
theorem emit (r : DiagRecord) : (s.emit r).Inv := { h with }

/-! Setters of a field that it reads. -/

theorem withWork {m : Memory} (hwf : Memory.wf m = true) (hin : Memory.within m s.geom.workSize = true) : (s.withWork m).Inv :=
  { h with work_wf := hwf, work_within := hin }

theorem withIoReq_none : (s.withIoReq none).Inv :=
  { h with io_lines := fun _ hw => nomatch hw }

theorem withTick_false : (s.withTick false).Inv :=
  { h with tick_armed := fun ht => nomatch ht }

theorem withTick_true (hs : s.sched = .runPaced) : (s.withTick true).Inv :=
  { h with tick_armed := fun _ => hs }

/-- R23: `S` may change to anything where the pending tick goes. -/
theorem withSched_withTick_false (x : Sched) : ((s.withSched x).withTick false).Inv :=
  { h with tick_armed := fun ht => nomatch ht }

/-! The bus primitives and the core's computations. -/

theorem busWrite (addr : Addr) (v : Byte) : (busWrite s addr v).Inv := by
  rcases busWrite_cases s addr v with ⟨-, e⟩ | ⟨hr, e⟩ <;> rw [e]
  · exact h
  · have hoff : workOffset s.geom addr < s.geom.workSize := by
      have hin := region_working hr
      unfold workOffset
      omega
    exact h.withWork (Memory.wf_write _ v h.work_wf) (Memory.within_write v hoff h.work_within)

theorem portRead (port : Addr) : (portRead s port).Inv := by
  obtain ⟨d, e⟩ := portRead_frame s port
  rw [e]
  exact { h with }

theorem portWrite (port : Addr) (v : IoWord) : (portWrite s port v).Inv := by
  obtain ⟨d, e⟩ := portWrite_frame s port v
  rw [e]
  exact { h with }

theorem runBus {α : Type} (p : BusProg α) : (runBus p s).2.Inv :=
  runBus_keeps State.Inv (fun _ addr v h => h.busWrite addr v) (fun _ port h => h.portRead port)
    (fun _ port v h => h.portWrite port v) p s h

theorem logUpcoming (C : CoreFns) : (logUpcoming C s).Inv := by
  rcases logUpcoming_cases C s with ⟨-, e⟩ | ⟨-, e⟩ <;> rw [e]
  · exact h
  · exact h.emit _

theorem finishStep (st : Status) : (finishStep st s).Inv := by
  obtain ⟨k, d, e, -, -⟩ := finishStep_frame st s
  rw [e]
  exact { h with }

theorem cycle (C : CoreFns) : (cycle C s).Inv :=
  (((h.logUpcoming C).runBus _).withCore _).finishStep _

theorem enterHalted : (enterHalted s).Inv := h.withSched_withTick_false .halted

/-! The operations. -/

theorem restart (C : CoreFns) : (restart C s).Inv :=
  ((h.withWork (m := []) rfl rfl).withCore _).withSched_withTick_false .idle

theorem startOp : (startOp s).Inv := by
  rcases startOp_cases s with ⟨-, e⟩ | ⟨-, -, e⟩ | ⟨-, -, e⟩ <;> rw [e]
  · exact (h.withCv _).withReply _ _
  · exact (h.withSched_withTick_false _).withReply _ _
  · exact (h.withSched_withTick_false _).withReply _ _

theorem tickOp (C : CoreFns) : (tickOp C s).Inv := by
  rcases tickOp_cases C s with ⟨-, e⟩ | ⟨-, -, e⟩ | ⟨-, -, e⟩ <;> rw [e]
  · exact h
  · exact h.enterHalted
  · exact h.cycle C

theorem fstepOp (C : CoreFns) : (fstepOp C s).Inv := by
  rcases fstepOp_cases C s with ⟨-, e⟩ | ⟨-, -, e⟩ | ⟨-, -, e⟩ <;> rw [e]
  · exact h
  · exact h.enterHalted.withReply _ _
  · exact h.cycle C

theorem ioRead (port : Addr) : ((Machine.portRead s port).withIoRdata (portValue s.ioW port)).Inv := by
  obtain ⟨d, e⟩ := portRead_frame s port
  rw [e]
  exact { h with io_zero := rfl }

theorem serve (C : CoreFns) (i : Instr) : (serve C i s).Inv := by
  cases i with
  | memRead addr => exact h.withMRdata _
  | memWrite addr v => exact h.busWrite addr v
  | ioRead port => exact h.ioRead port
  | ioWrite port v => exact h.portWrite port v
  | reset => exact (h.restart C).withReply _ _
  | start => exact h.startOp
  | stop => exact ((h.withCore _).enterHalted).withReply _ _
  | cycle => exact (h.cycle C).withReply _ _
  | tick => exact h.tickOp C
  | fstep => exact h.fstepOp C

/-! The boundary. -/

theorem arbitrateInCore (f : CoreCall) : (arbitrateInCore f s).2.Inv := by
  rcases arbitrateInCore_state f s with e | e | e <;> rw [e]
  · exact h.withMemReq none
  · exact h.withIoReq_none
  · exact h.withInCore none

theorem arbitrate : (arbitrate s).2.Inv := by
  rcases arbitrate_cases s with ⟨f, -, e⟩ | ⟨w, -, -, e⟩ | ⟨-, -, e⟩ | ⟨-, -, -, e⟩ | ⟨-, -, hs, e⟩ | ⟨-, -, -, e⟩ <;> rw [e]
  · exact h.arbitrateInCore f
  · exact h.withCmdReq none
  · exact h.withTick_false
  · exact h
  · exact h.withTick_true hs
  · exact h

theorem boundary (C : CoreFns) : (boundary C s).Inv := by
  rcases boundary_cases C s with e | ⟨i, e⟩ <;> rw [e]
  · exact h.arbitrate
  · exact h.arbitrate.serve C i

end State.Inv

/-- Settles O48: a step is a boundary, whose choice keeps the invariant and so does the operation it serves. -/
theorem everyStepKeepsTheInvariant : Obligations.EveryStepKeepsTheInvariant := by
  intro s t h hst
  rw [step_eq_boundary] at hst
  cases hst
  exact h.boundary Config.core

end Sys2Proof.Machine
end

section
/-! PROOFS of the state family: the writers of each register (10_state.md), said once for all ten operations. -/

namespace Sys2Proof.Machine

/-- What an operation may have written of the registers of 10_state.md, `s` before it and `t` after it. -/
structure OpFrame (i : Instr) (s t : State) : Prop where
  prog : t.prog = s.prog
  cfg : t.cfg = s.cfg
  geom : t.geom = s.geom
  ioW : t.ioW = s.ioW
  cv : t.cv = (s.cv || decide (i = .start ∧ s.sched.running = true))
  work : t.work ≠ s.work → i = .reset ∨ i = .cycle ∨ i = .tick ∨ i = .fstep ∨ ∃ a v, i = .memWrite a v
  core : t.core ≠ s.core → i = .reset ∨ i = .stop ∨ i = .cycle ∨ i = .tick ∨ i = .fstep
  halted_reset : i = .reset → t.core.halted = false
  halted_stop : i = .stop → t.core.halted = true
  halted_kept : i ≠ .reset → s.core.halted = true → t.core.halted = true

/-- R12 to R25: every operation keeps to its registers, around any core. -/
theorem serve_frame (C : CoreFns) (i : Instr) (s : State) : OpFrame i s (serve C i s) := by
  obtain ⟨m, k, d, hcycle, hk⟩ := cycle_frame C s
  cases i with
  | memRead addr => constructor <;> simp [serve]
  | memWrite addr v =>
    obtain ⟨m, e⟩ := busWrite_frame s addr v
    constructor <;> simp [serve, e]
  | ioRead port =>
    obtain ⟨d, e⟩ := portRead_frame s port
    constructor <;> simp [serve, e]
  | ioWrite port v =>
    obtain ⟨d, e⟩ := portWrite_frame s port v
    constructor <;> simp [serve, e]
  | reset => constructor <;> simp [serve, resetOp, restart, coreReset]
  | start =>
    rcases startOp_cases s with ⟨hr, e⟩ | ⟨hr, -, e⟩ | ⟨hr, -, e⟩ <;> constructor <;> simp [serve, e, hr]
  | stop => constructor <;> simp [serve, stopOp, enterHalted, forceHalt]
  | cycle => constructor <;> simp +contextual [serve, cycleOp, hcycle, hk]
  | tick =>
    rcases tickOp_cases C s with ⟨-, e⟩ | ⟨-, -, e⟩ | ⟨-, -, e⟩
    · constructor <;> simp [serve, e]
    · constructor <;> simp [serve, e, enterHalted]
    · constructor <;> simp +contextual [serve, e, hcycle, hk]
  | fstep =>
    rcases fstepOp_cases C s with ⟨-, e⟩ | ⟨-, -, e⟩ | ⟨-, -, e⟩
    · constructor <;> simp [serve, e]
    · constructor <;> simp [serve, e, enterHalted]
    · constructor <;> simp +contextual [serve, e, hcycle, hk]

/-- Choosing what to serve writes interface lines only. -/
theorem arbitrate_arch (s : State) : (arbitrate s).2.arch = s.arch := by
  rcases arbitrate_cases s with ⟨f, -, e⟩ | ⟨w, -, -, e⟩ | ⟨-, -, e⟩ | ⟨-, -, -, e⟩ | ⟨-, -, -, e⟩ | ⟨-, -, -, e⟩ <;> rw [e]
  case inl => rcases arbitrateInCore_state f s with e | e | e <;> rw [e] <;> rfl
  all_goals rfl

/-- Settles O42: the three clauses are the halted clauses of the operations' frame. -/
theorem onlyResetClearsTheHaltedFlag : Obligations.OnlyResetClearsTheHaltedFlag := fun i s =>
  have hf := serve_frame Config.core i s
  ⟨_, exec_eq_serve i s, hf.halted_reset, hf.halted_stop, hf.halted_kept⟩

/-- Settles O45: the frame of the operations over WORK and K. -/
theorem writersOfMemoryAndCore : Obligations.WritersOfMemoryAndCore := fun i s =>
  have hf := serve_frame Config.core i s
  ⟨_, exec_eq_serve i s, hf.work, hf.core⟩

/-- A boundary keeps what construction fixed, and never clears `CV`. -/
theorem boundary_keeps_constants (C : CoreFns) (s : State) :
    (boundary C s).prog = s.prog ∧ (boundary C s).cfg = s.cfg ∧ (boundary C s).geom = s.geom ∧ (boundary C s).ioW = s.ioW ∧
      (s.cv = true → (boundary C s).cv = true) := by
  have ha := arbitrate_arch s
  simp only [State.arch, Arch.mk.injEq] at ha
  obtain ⟨hgeom, hioW, hcfg, hprog, -, -, -, hcv, -⟩ := ha
  rcases boundary_cases C s with e | ⟨i, e⟩ <;> rw [e]
  · exact ⟨hprog, hcfg, hgeom, hioW, hcv.trans⟩
  · have hf := serve_frame C i (arbitrate s).2
    exact ⟨hf.prog.trans hprog, hf.cfg.trans hcfg, hf.geom.trans hgeom, hf.ioW.trans hioW,
      fun h => by rw [hf.cv, hcv, h, Bool.true_or]⟩

/-- Settles O44: a step is a boundary of this machine's core. -/
theorem stepsKeepWhatConstructionFixed : Obligations.StepsKeepWhatConstructionFixed := by
  intro s t hst
  rw [step_eq_boundary] at hst
  cases hst
  exact boundary_keeps_constants Config.core s

end Sys2Proof.Machine
end

section
/-! PROOFS of the state family: R18, no behaviour depends on `CV`: everything an operation is made of commutes with writing it. -/

namespace Sys2Proof.Machine

variable (C : CoreFns) (s : State) (b : Bool)

@[simp] theorem busRead_withCv (addr : Addr) : busRead (s.withCv b) addr = busRead s addr := rfl

@[simp] theorem busWrite_withCv (addr : Addr) (v : Byte) : busWrite (s.withCv b) addr v = (busWrite s addr v).withCv b := by
  unfold busWrite
  rw [State.withCv_geom]
  cases region s.geom addr <;> rfl

@[simp] theorem portRead_withCv (port : Addr) : portRead (s.withCv b) port = (portRead s port).withCv b := by
  unfold portRead
  rw [State.withCv_cfg]
  cases s.cfg.debug <;> rfl

@[simp] theorem portWrite_withCv (port : Addr) (v : IoWord) : portWrite (s.withCv b) port v = (portWrite s port v).withCv b := by
  unfold portWrite
  rw [State.withCv_cfg]
  cases s.cfg.debug <;> rfl

@[simp] theorem runReads_withCv {α : Type} (p : ReadProg α) : runReads p (s.withCv b) = runReads p s :=
  runReads_congr p (busRead_withCv s b)

@[simp] theorem disasmText_withCv : disasmText C (s.withCv b) = disasmText C s := runReads_withCv s b _

theorem runBus_withCv {α : Type} (p : BusProg α) : runBus p (s.withCv b) = ((runBus p s).1, (runBus p s).2.withCv b) := by
  induction p generalizing s with
  | done a => rfl
  | memRead addr next ih => simp only [runBus, busRead_withCv, ih]
  | memWrite addr v next ih => simp only [runBus, busWrite_withCv, ih]
  | ioRead port next ih => simp only [runBus, portRead_withCv, State.withCv_ioW, ih]
  | ioWrite port v next ih => simp only [runBus, portWrite_withCv, ih]

@[simp] theorem haltPred_withCv : haltPred C (s.withCv b) = haltPred C s := by
  simp only [haltPred, State.withCv_core, disasmText_withCv]

@[simp] theorem logUpcoming_withCv : logUpcoming C (s.withCv b) = (logUpcoming C s).withCv b := by
  unfold logUpcoming
  rw [State.withCv_cfg, disasmText_withCv]
  cases s.cfg.debug <;> rfl

@[simp] theorem finishStep_withCv (st : Status) : finishStep st (s.withCv b) = (finishStep st s).withCv b := by
  cases st with
  | ok =>
    unfold finishStep
    rw [State.withCv_cfg]
    cases s.cfg.debug <;> rfl
  | fault info => rfl

theorem State.withCore_withCv (k : CoreState) : (s.withCv b).withCore k = (s.withCore k).withCv b := rfl

theorem cycle_withCv : cycle C (s.withCv b) = (cycle C s).withCv b := by
  simp only [cycle, logUpcoming_withCv, State.withCv_core, runBus_withCv, State.withCore_withCv, finishStep_withCv]

theorem tickOp_withCv : tickOp C (s.withCv b) = (tickOp C s).withCv b := by
  unfold tickOp
  rw [State.withCv_sched, haltPred_withCv, cycle_withCv]
  cases s.sched <;> cases haltPred C s <;> rfl

theorem fstepOp_withCv : fstepOp C (s.withCv b) = (fstepOp C s).withCv b := by
  unfold fstepOp
  rw [State.withCv_sched, haltPred_withCv, cycle_withCv]
  cases s.sched <;> cases haltPred C s <;> rfl

@[simp] theorem coreReset_withCv : coreReset C (s.withCv b) = coreReset C s := by
  simp only [coreReset, State.withCv_core, runReads_withCv]

theorem State.withWork_withCv (m : Memory) : (s.withCv b).withWork m = (s.withWork m).withCv b := rfl

theorem resetOp_withCv : resetOp C (s.withCv b) = (resetOp C s).withCv b := by
  simp only [resetOp, restart, State.withWork_withCv, coreReset_withCv]
  rfl

/-- START raises `CV` or leaves it, and does the same else. -/
theorem startOp_withCv : (startOp (s.withCv b)).withCv false = (startOp s).withCv false := by
  unfold startOp
  rw [State.withCv_sched, State.withCv_cfg]
  cases s.sched.running <;> cases s.cfg.interval <;> rfl

/-- Every operation but START commutes with writing `CV`. -/
theorem serve_withCv_of_ne_start {i : Instr} (hi : i ≠ .start) : serve C i (s.withCv b) = (serve C i s).withCv b := by
  cases i with
  | memRead addr => rfl
  | memWrite addr v => exact busWrite_withCv s b addr v
  | ioRead port => exact congrArg (State.withIoRdata · (portValue s.ioW port)) (portRead_withCv s b port)
  | ioWrite port v => exact portWrite_withCv s b port v
  | reset => exact resetOp_withCv C s b
  | start => exact absurd rfl hi
  | stop => rfl
  | cycle => exact congrArg (State.withReply · true false) (cycle_withCv C s b)
  | tick => exact tickOp_withCv C s b
  | fstep => exact fstepOp_withCv C s b

/-- From two states that differ only in `CV`, an operation gives two that differ at most in `CV`. -/
theorem serve_withCv (i : Instr) : (serve C i (s.withCv b)).withCv false = (serve C i s).withCv false := by
  by_cases hi : i = .start
  · subst hi
    exact startOp_withCv s b
  · rw [serve_withCv_of_ne_start C s b hi]
    rfl

/-- Settles O43: construction clears `CV`, the frame of the operations says who raises it, and every operation commutes with writing
it. -/
theorem contractViolationFlagIsSticky : Obligations.ContractViolationFlagIsSticky := by
  refine ⟨fun g ioW fw c s hs => ?_, fun i s b => ?_⟩
  · obtain ⟨-, -, -, rfl⟩ := construct_next hs
    rfl
  · exact ⟨_, _, exec_eq_serve i s, exec_eq_serve i _, (serve_frame Config.core i s).cv, serve_withCv Config.core s b i⟩

end Sys2Proof.Machine
end

section
/-! PROOFS of the state family: the invariant at construction (R25, R150), and the status port (R15, R19, R22). -/

namespace Sys2Proof

theorem Cfg.default_legal : Cfg.default.Legal := by decide

namespace Machine

/-- A machine just constructed meets the invariant where its constants are legal and its Program region is loaded in bounds. -/
theorem State.constructed_inv {g : Geometry} {c : Cfg} {prog : Memory} (hg : g.Legal) (hc : c.Legal) (hwf : Memory.wf prog = true)
    (hin : Memory.within prog g.progCap = true) (ioW : Nat) : (State.constructed g ioW c prog).Inv where
  geom_legal := hg
  cfg_legal := hc
  prog_wf := hwf
  prog_within := hin
  work_wf := rfl
  work_within := rfl
  tick_armed ht := nomatch ht
  io_zero := rfl
  io_lines _ hw := nomatch hw

/-- R20, R57: a period that construction accepts is legal as the 32-bit number it is held in. -/
theorem settleCfg_legal {c : CfgInput} (h : c.periodLegal = true) : (settleCfg c).Legal := by
  obtain ⟨debug, interval, clockSpeed⟩ := c
  cases clockSpeed with
  | none => exact Cfg.default_legal
  | some n =>
    obtain ⟨hlow, hhigh⟩ : 1 ≤ n ∧ n < 2 ^ 32 := of_decide_eq_true h
    show 1 ≤ (BitVec.ofInt 32 n).toNat
    rw [BitVec.toNat_ofInt]
    omega

/-- A firmware that fits is loaded inside the Program region. -/
theorem Memory.within_ofBytes {bytes : List Byte} {size : Nat} (h : bytes.length ≤ size) :
    Memory.within (Memory.ofBytes 0 bytes) size = true :=
  (Memory.within_iff _ _).2 fun c hc => by
    have := (Memory.mem_ofBytes bytes 0 c hc).2
    omega

/-- Settles O49: both machines are `State.constructed` on legal constants. -/
theorem constructionEstablishesTheInvariant : Obligations.ConstructionEstablishesTheInvariant := by
  refine ⟨State.constructed_inv Config.geometry.toGeometry_legal Cfg.default_legal rfl rfl _, fun g ioW fw c s hs => ?_⟩
  obtain ⟨hg, hfw, hc, rfl⟩ := construct_next hs
  exact State.constructed_inv hg (settleCfg_legal hc) (Memory.wf_ofBytes fw 0) (Memory.within_ofBytes hfw) ioW

/-- R15, D9: no two scheduler states have one code. -/
theorem Sched.code_injective : Function.Injective Sched.code := by
  intro x y
  cases x <;> cases y <;> decide

theorem Sched.running_iff (x : Sched) : x.running = true ↔ x = .runPaced ∨ x = .runFree := by
  cases x <;> decide

theorem Sched.timerActive_iff (x : Sched) : x.timerActive = true ↔ x = .runPaced := by
  cases x <;> decide

/-- D9: the code is chosen so that `running` is the exclusive or of its bits. -/
theorem Sched.running_eq_xor (x : Sched) : x.running = (x.code.getLsbD 1 ^^ x.code.getLsbD 0) := by
  cases x <;> rfl

/-- Settles O52: each line is its derived signal of `S`, and the codes tell the four states apart. -/
theorem statusPortShowsTheScheduler : Obligations.StatusPortShowsTheScheduler := fun s =>
  ⟨s.sched.running_iff, s.sched.running_eq_xor, s.sched.timerActive_iff,
    Sched.code_injective.eq_iff (b := .idle), Sched.code_injective.eq_iff (b := .runPaced),
    Sched.code_injective.eq_iff (b := .runFree), Sched.code_injective.eq_iff (b := .halted), rfl, rfl⟩

end Machine
end Sys2Proof
end

section
/-! PROOFS of the memory family (20_memory.md): the region map (R38), coherence of fetch (R43), and the two spaces apart (R30). -/

namespace Sys2Proof.Machine

/-- The third arm is taken where neither of the other two is. -/
theorem region_unmapped_iff {g : Geometry} (hg : g.Legal) (addr : Addr) :
    region g addr = .unmapped ↔
      (g.progCap ≤ addr.toNat ∧ addr.toNat < g.workBase) ∨ g.workBase + g.workSize ≤ addr.toNat := by
  have hp := region_program_iff g addr
  have hw := region_working_iff hg addr
  obtain ⟨h, -⟩ := hg
  cases hr : region g addr <;> simp only [hr, reduceCtorEq, true_iff, false_iff] at hp hw ⊢ <;> omega

/-- Settles O9: an equivalence per arm; R5 keeps the Program region below the window, and 0xFFFF above it. -/
theorem regionMapOfEveryLegalGeometry : Obligations.RegionMapOfEveryLegalGeometry := by
  intro g hg
  have hdisjoint : ∀ n, ¬ (n < g.progCap ∧ g.workBase ≤ n ∧ n < g.workBase + g.workSize) := fun n => by
    obtain ⟨h, -⟩ := hg
    omega
  exact ⟨fun addr => ⟨region_program_iff g addr, region_working_iff hg addr, region_unmapped_iff hg addr, hdisjoint _⟩,
    (region_unmapped_iff hg _).2 (.inr hg.2)⟩

@[simp] theorem busWrite_core (s : State) (addr : Addr) (v : Byte) : (busWrite s addr v).core = s.core := by
  obtain ⟨m, e⟩ := busWrite_frame s addr v
  rw [e, State.withWork_core]

/-- Settles O18: the store leaves K alone, so the disassembly is the same computation, and its first read gives the stored byte. -/
theorem disassemblySeesTheStoredByte : Obligations.DisassemblySeesTheStoredByte := by
  intro C s addr v rest hr hd
  refine ⟨busWrite s addr v, rfl, ?_⟩
  rw [disasmText, busWrite_core, hd, runReads, busRead_busWrite_self s v hr]

/-- Settles O21: each port operation writes the output trace at most, and IO.READ the answer line besides. -/
theorem portsAndMemoryAreSeparate : Obligations.PortsAndMemoryAreSeparate := by
  intro s p q v
  refine ⟨(portRead (portWrite s p v) q).withIoRdata (portValue (portWrite s p v).ioW q), rfl, ?_⟩
  obtain ⟨d, hw⟩ := portWrite_frame s p v
  obtain ⟨e, hr⟩ := portRead_frame { s with diag := d } q
  rw [hw, hr]
  exact ⟨rfl, fun _ => rfl, rfl, rfl⟩

end Sys2Proof.Machine
end

section
/-! PROOFS of the memory family: which operation a step serves (R31, R102, R126), a lemma per clause of the order of service. -/

namespace Sys2Proof.Machine

variable {s s' : State} {f : CoreCall}

theorem busRequest_of_memReq {w : BitVec 25} (hm : s.memReq = some w) : busRequest s = some (.membus w, s.withMemReq none) := by
  simp only [busRequest, hm]

theorem busRequest_of_ioReq {w : IobusWord} (hm : s.memReq = none) (hi : s.ioReq = some w) :
    busRequest s = some (.iobus w, s.withIoReq none) := by
  simp only [busRequest, hm, hi]

theorem busRequest_of_none (hm : s.memReq = none) (hi : s.ioReq = none) : busRequest s = none := by
  simp only [busRequest, hm, hi]

/-- R31: inside a core function a transaction that the function may issue is taken. -/
theorem arbitrate_of_busRequest {t : Transaction} (hf : s.inCore = some f) (hb : busRequest s = some (t, s'))
    (hmay : mayIssue f (decode t) = true) : arbitrate s = (some t, s') := by
  simp only [arbitrate, hf, arbitrateInCore, hb, hmay, if_true]

/-- With nothing on the core's two ports the core function is over. -/
theorem arbitrate_of_no_busRequest (hf : s.inCore = some f) (hb : busRequest s = none) :
    arbitrate s = (none, s.withInCore none) := by
  simp only [arbitrate, hf, arbitrateInCore, hb]

theorem arbitrate_of_cmdReq {w : BitVec 2} (hf : s.inCore = none) (hc : s.cmdReq = some w) :
    arbitrate s = (some (.hostcmd w), s.withCmdReq none) := by
  simp only [arbitrate, hf, hc]

/-- Settles O6: the choice of a boundary, clause by clause; with no request, the boundary of a tick, of a driver or of none. -/
theorem stepServesTheDecodedOperation : Obligations.StepServesTheDecodedOperation := by
  intro s
  refine ⟨fun f w hf hm hmay => ?_, fun f w hf hm hi hmay => ?_, fun f hf hm hi => ?_, fun w hf hc => ?_,
    fun h ht => ?_, fun h ht hs => ?_, fun h ht hs => ?_, fun h ht hs => ?_⟩
  · exact step_of_some (arbitrate_of_busRequest hf (busRequest_of_memReq hm) hmay)
  · exact step_of_some (arbitrate_of_busRequest hf (busRequest_of_ioReq hm hi) hmay)
  · exact step_of_none (arbitrate_of_no_busRequest hf (busRequest_of_none hm hi))
  · exact step_of_some (arbitrate_of_cmdReq hf hc)
  · rw [step_eq_boundary, boundary_of_tick _ h ht, exec_eq_serve, serve]
  · rw [step_eq_boundary, boundary_of_runFree _ h ht hs, exec_eq_serve, serve]
  · rw [step_eq_boundary, boundary_of_runPaced _ h ht hs]
  · rw [step_eq_boundary, boundary_of_not_running _ h ht hs]

/-- R16 (b): a disassembly may issue MEM.READs only. -/
theorem mayIssue_disasm_iff (i : Instr) : mayIssue .disasm i = true ↔ ∃ addr, i = .memRead addr := by
  cases i <;> simp [mayIssue]

theorem decode_iobus_ne_memRead (w : IobusWord) (addr : Addr) : decode (.iobus w) ≠ .memRead addr := by
  show decodeIobus w ≠ _
  unfold decodeIobus
  split <;> exact Instr.noConfusion

/-- Inside a disassembly the MEM.READ presented is served. -/
theorem boundary_disasm_of_memRead (C : CoreFns) (hf : s.inCore = some .disasm) {w : BitVec 25} {addr : Addr}
    (hm : s.memReq = some w) (hd : decode (.membus w) = .memRead addr) :
    boundary C s = serve C (.memRead addr) (s.withMemReq none) := by
  have hmay : mayIssue .disasm (decode (.membus w)) = true := (mayIssue_disasm_iff _).2 ⟨addr, hd⟩
  rw [boundary_of_some C (arbitrate_of_busRequest hf (busRequest_of_memReq hm) hmay), hd]

/-- With no MEM.READ presented a disassembly is over: no other word on either port decodes to an operation it may issue. -/
theorem boundary_disasm_of_no_memRead (C : CoreFns) (hf : s.inCore = some .disasm)
    (hno : ∀ w addr, s.memReq = some w → decode (.membus w) ≠ .memRead addr) : boundary C s = s.withInCore none := by
  have ha : arbitrate s = arbitrateInCore .disasm s := by simp only [arbitrate, hf]
  rcases arbitrateInCore_cases .disasm s with ⟨t, s', hb, hmay, -⟩ | e
  · obtain ⟨addr, hd⟩ := (mayIssue_disasm_iff _).1 hmay
    rcases busRequest_cases s with ⟨w, hm, e⟩ | ⟨w, -, -, e⟩ | ⟨-, -, e⟩ <;> rw [e] at hb <;> cases hb
    · exact absurd hd (hno w addr hm)
    · exact absurd hd (decode_iobus_ne_memRead w addr)
  · exact boundary_of_none C (ha.trans e)

end Sys2Proof.Machine
end

section
/-! PROOFS of the memory family: the interface lines apart from the state of the spec. A state is its `State.arch` and its `Lines`;
what the core does in a step neither reads nor writes a line, and no operation reads or writes a request (R31, R41, R105). -/

namespace Sys2Proof.Machine

/-- The requests that stand at a boundary: the core function in progress and the transactions presented on the three ports. -/
structure Requests where
  inCore : Option CoreCall
  memReq : Option (BitVec 25)
  ioReq : Option IobusWord
  cmdReq : Option (BitVec 2)

/-- All that `State.arch` leaves out: the requests, the tick and the output lines last driven. -/
structure Lines extends Requests where
  tick : Bool
  mRdata : Byte
  ioRdata : IoWord
  cmdAck : Bool
  cmdErr : Bool

/-- The lines of a state. -/
def State.lines (s : State) : Lines :=
  { inCore := s.inCore, memReq := s.memReq, ioReq := s.ioReq, cmdReq := s.cmdReq, tick := s.tick, mRdata := s.mRdata
    ioRdata := s.ioRdata, cmdAck := s.cmdAck, cmdErr := s.cmdErr }

/-- A state with other lines. -/
def State.withLines (s : State) (l : Lines) : State :=
  { s with
    inCore := l.inCore, memReq := l.memReq, ioReq := l.ioReq, cmdReq := l.cmdReq, tick := l.tick, mRdata := l.mRdata
    ioRdata := l.ioRdata, cmdAck := l.cmdAck, cmdErr := l.cmdErr }

/-- The requests of a state. -/
def State.requests (s : State) : Requests := s.lines.toRequests

/-- A state with other requests. -/
def State.withRequests (s : State) (q : Requests) : State := s.withLines { s.lines with toRequests := q }

variable (C : CoreFns) (s : State) (l : Lines) (q : Requests)

@[simp] theorem State.withLines_arch : (s.withLines l).arch = s.arch := rfl
@[simp] theorem State.withLines_self : s.withLines s.lines = s := rfl
@[simp] theorem State.withLines_lines : (s.withLines l).lines = l := rfl
@[simp] theorem State.withLines_geom : (s.withLines l).geom = s.geom := rfl
@[simp] theorem State.withLines_core : (s.withLines l).core = s.core := rfl
@[simp] theorem State.withLines_withCore (k : CoreState) : (s.withLines l).withCore k = (s.withCore k).withLines l := rfl
@[simp] theorem State.withRequests_cfg : (s.withRequests q).cfg = s.cfg := rfl
@[simp] theorem State.withRequests_sched : (s.withRequests q).sched = s.sched := rfl
@[simp] theorem State.withRequests_self : s.withRequests s.requests = s := rfl
@[simp] theorem State.withRequests_requests : (s.withRequests q).requests = q := rfl

/-! The bus primitives and what a step of the core is made of. -/

@[simp] theorem busWrite_withLines (addr : Addr) (v : Byte) :
    busWrite (s.withLines l) addr v = (busWrite s addr v).withLines l := by
  unfold busWrite
  rw [State.withLines_geom]
  cases region s.geom addr <;> rfl

@[simp] theorem portRead_withLines (port : Addr) : portRead (s.withLines l) port = (portRead s port).withLines l :=
  (apply_ite (State.withLines · l) (s.cfg.debug = true) (s.emit _) s).symm

@[simp] theorem portWrite_withLines (port : Addr) (v : IoWord) :
    portWrite (s.withLines l) port v = (portWrite s port v).withLines l :=
  (apply_ite (State.withLines · l) (s.cfg.debug = true) (s.emit _) s).symm

@[simp] theorem disasmText_withLines : disasmText C (s.withLines l) = disasmText C s :=
  disasmText_congr C rfl rfl rfl rfl

@[simp] theorem haltPred_withLines : haltPred C (s.withLines l) = haltPred C s := by
  simp only [haltPred, disasmText_withLines, State.withLines_core]

theorem coreReset_withLines : coreReset C (s.withLines l) = coreReset C s :=
  congrArg (CoreState.mk · false) (runReads_congr _ fun _ => rfl)

@[simp] theorem logUpcoming_withLines : logUpcoming C (s.withLines l) = (logUpcoming C s).withLines l := by
  unfold logUpcoming
  rw [disasmText_withLines]
  exact (apply_ite (State.withLines · l) (s.cfg.debug = true) (s.emit _) s).symm

@[simp] theorem finishStep_withLines (st : Status) : finishStep st (s.withLines l) = (finishStep st s).withLines l := by
  cases st with
  | ok => exact (apply_ite (State.withLines · l) (s.cfg.debug = true) (s.emit _) s).symm
  | fault info => rfl

@[simp] theorem runBus_withLines {α : Type} (p : BusProg α) :
    runBus p (s.withLines l) = ((runBus p s).1, (runBus p s).2.withLines l) := by
  induction p generalizing s with
  | done a => rfl
  | memRead addr next ih => exact ih _ s
  | memWrite addr v next ih => simp only [runBus, busWrite_withLines, ih]
  | ioRead port next ih =>
    simp only [runBus, portRead_withLines]
    exact ih _ _
  | ioWrite port v next ih => simp only [runBus, portWrite_withLines, ih]

@[simp] theorem cycle_withLines : cycle C (s.withLines l) = (cycle C s).withLines l := by
  simp only [cycle, logUpcoming_withLines, State.withLines_core, runBus_withLines, State.withLines_withCore,
    finishStep_withLines]

/-! The operations. -/

/-- What neither reads nor writes a line neither reads nor writes a request. -/
theorem withRequests_of_withLines {g : State → State} (hg : ∀ s l, g (s.withLines l) = (g s).withLines l) :
    g (s.withRequests q) = (g s).withRequests q := by
  have hl := congrArg State.lines (hg s s.lines)
  rw [State.withLines_self, State.withLines_lines] at hl
  rw [State.withRequests, State.withRequests, hg, hl]

theorem cycle_withRequests : cycle C (s.withRequests q) = (cycle C s).withRequests q :=
  withRequests_of_withLines s q (cycle_withLines C)

theorem portRead_withRequests (port : Addr) : portRead (s.withRequests q) port = (portRead s port).withRequests q :=
  withRequests_of_withLines s q (g := (portRead · port)) (portRead_withLines · · port)

theorem resetOp_withRequests : resetOp C (s.withRequests q) = (resetOp C s).withRequests q := by
  have hk : coreReset C ((s.withRequests q).withWork []) = coreReset C (s.withWork []) := coreReset_withLines C (s.withWork []) _
  rw [resetOp, restart, hk]
  rfl

theorem startOp_withRequests : startOp (s.withRequests q) = (startOp s).withRequests q := by
  unfold startOp
  rw [State.withRequests_sched, State.withRequests_cfg]
  cases s.sched.running <;> cases s.cfg.interval <;> rfl

theorem tickOp_withRequests : tickOp C (s.withRequests q) = (tickOp C s).withRequests q := by
  have hh : haltPred C (s.withRequests q) = haltPred C s := haltPred_withLines C s _
  unfold tickOp
  rw [hh, cycle_withRequests, State.withRequests_sched]
  cases s.sched <;> cases haltPred C s <;> rfl

theorem fstepOp_withRequests : fstepOp C (s.withRequests q) = (fstepOp C s).withRequests q := by
  have hh : haltPred C (s.withRequests q) = haltPred C s := haltPred_withLines C s _
  unfold fstepOp
  rw [hh, cycle_withRequests, State.withRequests_sched]
  cases s.sched <;> cases haltPred C s <;> rfl

/-- No operation reads or writes a request. -/
theorem serve_withRequests (i : Instr) : serve C i (s.withRequests q) = (serve C i s).withRequests q := by
  cases i with
  | memRead addr => rfl
  | memWrite addr v => exact withRequests_of_withLines s q (busWrite_withLines · · addr v)
  | ioRead port => exact congrArg (State.withIoRdata · (portValue s.ioW port)) (portRead_withRequests s q port)
  | ioWrite port v => exact withRequests_of_withLines s q (portWrite_withLines · · port v)
  | reset => exact resetOp_withRequests C s q
  | start => exact startOp_withRequests s q
  | stop => rfl
  | cycle => exact congrArg (State.withReply · true false) (cycle_withRequests C s q)
  | tick => exact tickOp_withRequests C s q
  | fstep => exact fstepOp_withRequests C s q

/-- Every operation leaves the requests as they are. -/
@[simp] theorem serve_requests (i : Instr) : (serve C i s).requests = s.requests := by
  have h := congrArg State.requests (serve_withRequests C s s.requests i)
  rwa [State.withRequests_self, State.withRequests_requests] at h

/-- No operation reads or writes the core's two ports. -/
theorem serve_withPorts (i : Instr) (m : Option (BitVec 25)) (w : Option IobusWord) :
    serve C i ((s.withMemReq m).withIoReq w) = ((serve C i s).withMemReq m).withIoReq w := by
  have hports : ∀ u : State, (u.withMemReq m).withIoReq w = u.withRequests { u.requests with memReq := m, ioReq := w } :=
    fun _ => rfl
  rw [hports, hports, serve_withRequests, serve_requests]

end Sys2Proof.Machine
end

section
/-! PROOFS of the memory family: the core's two ports at a boundary (R31, R102). -/

namespace Sys2Proof.Machine

/-- With no core function in progress nothing that a boundary can do looks at the core's two ports or takes anything off them. -/
theorem boundary_withPorts (C : CoreFns) {s : State} (h : s.inCore = none) (m : Option (BitVec 25)) (w : Option IobusWord) :
    boundary C ((s.withMemReq m).withIoReq w) = ((boundary C s).withMemReq m).withIoReq w := by
  have hports : s.noRequest → ((s.withMemReq m).withIoReq w).noRequest := id
  rcases arbitrate_cases s with ⟨f, hf, -⟩ | ⟨c, -, hc, e⟩ | ⟨hn, ht, -⟩ | ⟨hn, ht, hs, -⟩ | ⟨hn, ht, hs, -⟩ | ⟨hn, ht, hs, -⟩
  · exact absurd (h.symm.trans hf) nofun
  · have e' : arbitrate ((s.withMemReq m).withIoReq w) = _ := arbitrate_of_cmdReq h hc
    rw [boundary_of_some C e, boundary_of_some C e']
    exact serve_withPorts C (s.withCmdReq none) _ m w
  · rw [boundary_of_tick C hn ht, boundary_of_tick C (hports hn) ht]
    exact serve_withPorts C (s.withTick false) .tick m w
  · rw [boundary_of_runFree C hn ht hs, boundary_of_runFree C (hports hn) ht hs]
    exact serve_withPorts C s .fstep m w
  · rw [boundary_of_runPaced C hn ht hs, boundary_of_runPaced C (hports hn) ht hs]
    rfl
  · have hr : s.sched.running = false := by rcases hs with hs | hs <;> rw [hs] <;> rfl
    rw [boundary_of_not_running C hn ht hr, boundary_of_not_running C (hports hn) ht hr]

/-- Settles O53: outside the core functions nothing a boundary does looks at the two ports; inside a disassembly
only a MEM.READ may be issued. -/
theorem busPortsAreDeafOutsideTheCore : Obligations.BusPortsAreDeafOutsideTheCore :=
  ⟨fun C _ h m w => boundary_withPorts C h m w, fun C _ hf =>
    ⟨fun _ _ hm hd => boundary_disasm_of_memRead C hf hm hd, boundary_disasm_of_no_memRead C hf⟩⟩

namespace State.busQuiet

variable {s : State} (h : s.busQuiet)
include h

theorem of_requests {t : State} (e : t.requests = s.requests) : t.busQuiet := by
  obtain ⟨hf, hm, hi⟩ := h
  exact ⟨(congrArg Requests.inCore e).trans hf, (congrArg Requests.memReq e).trans hm, (congrArg Requests.ioReq e).trans hi⟩

/-- With no core function in progress the choice takes a host command or a tick off its line, or raises one. -/
theorem arbitrate : (arbitrate s).2.busQuiet := by
  rcases arbitrate_cases s with ⟨f, hf, -⟩ | ⟨w, -, -, e⟩ | ⟨-, -, e⟩ | ⟨-, -, -, e⟩ | ⟨-, -, -, e⟩ | ⟨-, -, -, e⟩
  case inl => exact absurd (h.1.symm.trans hf) nofun
  all_goals
    rw [e]
    exact h

theorem boundary (C : CoreFns) : (boundary C s).busQuiet := by
  rcases boundary_cases C s with e | ⟨i, e⟩ <;> rw [e]
  · exact h.arbitrate
  · exact h.arbitrate.of_requests (serve_requests C _ i)

end State.busQuiet

theorem State.constructed_busQuiet (g : Geometry) (ioW : Nat) (c : Cfg) (prog : Memory) :
    (State.constructed g ioW c prog).busQuiet := ⟨rfl, rfl, rfl⟩

/-- Settles O55: both machines are `State.constructed`, and a step is a boundary. -/
theorem corePortsStayQuiet : Obligations.CorePortsStayQuiet := by
  refine ⟨State.constructed_busQuiet _ _ _ _, fun g ioW fw c s hs => ?_, fun s t h hst => ?_⟩
  · obtain ⟨-, -, -, rfl⟩ := construct_next hs
    exact State.constructed_busQuiet _ _ _ _
  · rw [step_eq_boundary] at hst
    cases hst
    exact h.boundary Config.core

end Sys2Proof.Machine
end

section
/-! PROOFS of the memory family: operations one after another (R41), and what they leave of a byte read (R37). -/

namespace Sys2Proof.Machine

/-- A list of operations goes on from where its first one ends: none of them stops the machine. -/
theorem execAll_cons (i : Instr) (is : List Instr) (s : State) : execAll (i :: is) s = execAll is (serve Config.core i s) := by
  rw [execAll, exec_eq_serve]

theorem trace_cons (i : Instr) (is : List Instr) (s : State) :
    Claims.trace (i :: is) s = Claims.opsOf i s ++ Claims.trace is (serve Config.core i s) := by
  rw [Claims.trace, exec_eq_serve]

/-- What every operation keeps, a list of operations keeps, and it ends in a next state. -/
theorem execAll_keeps {P : State → Prop} (hP : ∀ i s, P s → P (serve Config.core i s)) (is : List Instr) {s : State} (hs : P s) :
    ∃ t, execAll is s = .next t ∧ P t := by
  induction is generalizing s with
  | nil => exact ⟨s, rfl, hs⟩
  | cons i is ih =>
    rw [execAll_cons]
    exact ih (hP i s hs)

/-- A word put on the port's lines twice is the word put there once. -/
theorem portWrite_portWord (s : State) (port : Addr) (v : IoWord) : portWrite s port (portWord s.ioW v) = portWrite s port v := by
  rw [portWrite, portWrite, portWord_portWord]

/-- R41: the operations that a computation issues, executed one after another whatever stands on the lines, leave the state that
running it leaves, but for the lines. -/
theorem execAll_busTrace {α : Type} (p : BusProg α) (s : State) (l : Lines) :
    ∃ l', execAll (busTrace p s) (s.withLines l) = .next ((runBus p s).2.withLines l') := by
  induction p generalizing s l with
  | done a => exact ⟨l, rfl⟩
  | memRead addr next ih => exact ih _ s { l with mRdata := busRead s addr }
  | memWrite addr v next ih =>
    rw [busTrace, execAll_cons, serve, busWrite_withLines]
    exact ih _ l
  | ioRead port next ih =>
    rw [busTrace, execAll_cons, serve, portRead_withLines]
    exact ih _ _ { l with ioRdata := portValue s.ioW port }
  | ioWrite port v next ih =>
    rw [busTrace, execAll_cons, serve, portWrite_withLines, portWrite_portWord]
    exact ih _ l

/-- Settles O37: from the state's own lines. -/
theorem busOperationsOfAStepAreTheTableOperations : Obligations.BusOperationsOfAStepAreTheTableOperations := by
  intro p s
  obtain ⟨l, e⟩ := execAll_busTrace p s s.lines
  exact ⟨_, e, State.withLines_arch _ l⟩

/-! A byte read, and the operations that leave it. -/

/-- Outside the window a read sees the geometry and the Program region only. -/
theorem busRead_congr_of_not_working {s t : State} (hg : s.geom = t.geom) (hp : s.prog = t.prog) {addr : Addr}
    (hr : region s.geom addr ≠ .working) : busRead s addr = busRead t addr := by
  unfold busRead
  rw [← hg, hp]
  cases h : region s.geom addr with
  | program => rfl
  | working => exact absurd h hr
  | unmapped => rfl

/-- A Program or unmapped address reads the same after any operation. -/
theorem busRead_serve_of_not_working (C : CoreFns) (i : Instr) {s : State} {addr : Addr} (hr : region s.geom addr ≠ .working) :
    busRead (serve C i s) addr = busRead s addr :=
  have hf := serve_frame C i s
  (busRead_congr_of_not_working hf.geom.symm hf.prog.symm hr).symm

theorem busRead_portRead (s : State) (port addr : Addr) : busRead (portRead s port) addr = busRead s addr := by
  obtain ⟨d, e⟩ := portRead_frame s port
  rw [e]
  rfl

theorem busRead_portWrite (s : State) (port : Addr) (v : IoWord) (addr : Addr) : busRead (portWrite s port v) addr = busRead s addr := by
  obtain ⟨d, e⟩ := portWrite_frame s port v
  rw [e]
  rfl

theorem busRead_logUpcoming (C : CoreFns) (s : State) (addr : Addr) : busRead (logUpcoming C s) addr = busRead s addr := by
  rcases logUpcoming_cases C s with ⟨-, e⟩ | ⟨-, e⟩ <;> rw [e]
  rfl

theorem busRead_finishStep (st : Status) (s : State) (addr : Addr) : busRead (finishStep st s) addr = busRead s addr := by
  obtain ⟨k, d, e, -, -⟩ := finishStep_frame st s
  rw [e]
  rfl

/-- An address that a computation stores nothing to reads as before it. -/
theorem busRead_runBus {α : Type} (p : BusProg α) (s : State) (addr : Addr) (h : ∀ v, .memWrite addr v ∉ busTrace p s) :
    busRead (runBus p s).2 addr = busRead s addr := by
  induction p generalizing s with
  | done a => rfl
  | memRead a next ih => exact ih _ s fun v hv => h v (List.mem_cons_of_mem _ hv)
  | memWrite a b next ih =>
    have hne : addr ≠ a := by
      rintro rfl
      exact h b List.mem_cons_self
    exact (ih _ fun v hv => h v (List.mem_cons_of_mem _ hv)).trans (busRead_busWrite_ne s b hne)
  | ioRead port next ih =>
    exact (ih _ _ fun v hv => h v (List.mem_cons_of_mem _ hv)).trans (busRead_portRead s port addr)
  | ioWrite port b next ih =>
    exact (ih _ fun v hv => h v (List.mem_cons_of_mem _ hv)).trans (busRead_portWrite s port b addr)

/-- An address that the core stores nothing to in a step reads as before the step. -/
theorem busRead_cycle (C : CoreFns) (s : State) (addr : Addr)
    (h : ∀ v, .memWrite addr v ∉ busTrace (C.execute s.core) (logUpcoming C s)) : busRead (cycle C s) addr = busRead s addr :=
  calc busRead (cycle C s) addr
      = busRead (runBus (C.execute s.core) (logUpcoming C s)).2 addr := busRead_finishStep _ _ addr
    _ = busRead (logUpcoming C s) addr := busRead_runBus _ _ addr h
    _ = busRead s addr := busRead_logUpcoming C s addr

/-- No RESET and no store to an address is among some operations. -/
def leavesByte (addr : Addr) (ops : List Instr) : Prop := ∀ i ∈ ops, i ≠ .reset ∧ ∀ v, i ≠ .memWrite addr v

theorem leavesByte_append {addr : Addr} {xs ys : List Instr} :
    leavesByte addr (xs ++ ys) ↔ leavesByte addr xs ∧ leavesByte addr ys := List.forall_mem_append

theorem leavesByte.not_mem {addr : Addr} {ops : List Instr} (h : leavesByte addr ops) (v : Byte) : .memWrite addr v ∉ ops :=
  fun hv => (h _ hv).2 v rfl

/-- An operation that comes to no RESET and no store to an address leaves what the address reads. -/
theorem busRead_serve (i : Instr) (s : State) (addr : Addr) (h : leavesByte addr (Claims.opsOf i s)) :
    busRead (serve Config.core i s) addr = busRead s addr := by
  cases i with
  | memRead a => rfl
  | memWrite a v =>
    have hne : addr ≠ a := by
      rintro rfl
      exact h.not_mem v List.mem_cons_self
    exact busRead_busWrite_ne s v hne
  | ioRead port => exact busRead_portRead s port addr
  | ioWrite port v => exact busRead_portWrite s port v addr
  | reset => exact absurd rfl (h .reset List.mem_cons_self).1
  | start => rcases startOp_cases s with ⟨-, e⟩ | ⟨-, -, e⟩ | ⟨-, -, e⟩ <;> rw [serve, e] <;> rfl
  | stop => rfl
  | cycle => exact busRead_cycle Config.core s addr h.not_mem
  | tick =>
    rcases tickOp_cases Config.core s with ⟨-, e⟩ | ⟨-, -, e⟩ | ⟨hs, hh, e⟩ <;> rw [serve, e]
    · rfl
    · rw [Claims.opsOf, if_pos ⟨hs, hh⟩] at h
      exact busRead_cycle Config.core s addr h.not_mem
  | fstep =>
    rcases fstepOp_cases Config.core s with ⟨-, e⟩ | ⟨-, -, e⟩ | ⟨hs, hh, e⟩ <;> rw [serve, e]
    · rfl
    · rw [Claims.opsOf, if_pos ⟨hs, hh⟩] at h
      exact busRead_cycle Config.core s addr h.not_mem

/-- So do any number of operations, the core's own stores counted. -/
theorem busRead_execAll (is : List Instr) (s : State) (addr : Addr) (h : leavesByte addr (Claims.trace is s)) :
    ∃ t, execAll is s = .next t ∧ busRead t addr = busRead s addr := by
  induction is generalizing s with
  | nil => exact ⟨s, rfl, rfl⟩
  | cons i is ih =>
    rw [trace_cons, leavesByte_append] at h
    obtain ⟨hi, his⟩ := h
    obtain ⟨t, ht, hb⟩ := ih _ his
    exact ⟨t, by rw [execAll_cons, ht], hb.trans (busRead_serve i s addr hi)⟩

/-- A Program or unmapped address reads the same after any number of operations. -/
theorem busRead_execAll_of_not_working (is : List Instr) {s : State} {addr : Addr} (hr : region s.geom addr ≠ .working) :
    ∃ t, execAll is s = .next t ∧ busRead t addr = busRead s addr := by
  have hkeep : ∀ i t, t.geom = s.geom ∧ busRead t addr = busRead s addr →
      (serve Config.core i t).geom = s.geom ∧ busRead (serve Config.core i t) addr = busRead s addr := by
    rintro i t ⟨hg, hb⟩
    exact ⟨(serve_frame Config.core i t).geom.trans hg, (busRead_serve_of_not_working _ i (hg ▸ hr)).trans hb⟩
  obtain ⟨t, ht, -, hb⟩ := execAll_keeps hkeep is ⟨rfl, rfl⟩
  exact ⟨t, ht, hb⟩

theorem exec_ioRead_arch (s : State) (port : Addr) : ∃ t, exec (.ioRead port) s = .next t ∧
    t.arch = { s.arch with diag := if s.cfg.debug then s.diag ++ [.ioRead port] else s.diag } := by
  refine ⟨_, rfl, ?_⟩
  rcases portRead_cases s port with ⟨hd, e⟩ | ⟨hd, e⟩ <;> rw [e, hd] <;> rfl

/-- Settles O17: MEM.READ answers what the address reads, which the operations between leave, or, outside the window, any do. -/
theorem readsAreIdempotent : Obligations.ReadsAreIdempotent := by
  intro s addr
  refine ⟨⟨_, rfl, rfl⟩, fun is h => ?_, fun hr is => ?_, exec_ioRead_arch s⟩
  · obtain ⟨t, ht, hb⟩ := busRead_execAll _ s addr h
    exact ⟨t, _, _, ht, rfl, rfl, hb⟩
  · obtain ⟨t, ht, hb⟩ := busRead_execAll_of_not_working is hr
    exact ⟨t, _, _, ht, rfl, rfl, hb⟩

end Sys2Proof.Machine
end

section
/-! PROOFS of the encoding family (30_encoding.md): decode and encode agree (R52 to R55, R58), at every port width. -/

namespace Sys2Proof

/-- R52: the top bit of a MEMBUS concatenation selects, and the two fields below it are the operands. -/
theorem decode_membusWord (we : BitVec 1) (addr : Addr) (value : Byte) :
    decode (.membus (membusWord we addr value)) = if we.getLsbD 0 then .memWrite addr value else .memRead addr := by
  show decodeMembus _ = _
  rw [decodeMembus, membusWord_we, membusWord_addr, membusWord_value]

/-- R52, R53: decoding undoes encoding; the bus words by their fields, the commands and events by their codes. -/
theorem decode_encode {ioW : Nat} {i : Instr} (h : i.wellFormed ioW = true) : decode (encode ioW i) = i := by
  cases i with
  | memRead addr => exact decode_membusWord 0#1 addr 0#8
  | memWrite addr v => exact decode_membusWord 1#1 addr v
  | ioRead port => exact decode_iobusWord 0#1 port _
  | ioWrite port v => exact decode_iobusWord 1#1 port v
  | reset => rfl
  | start => rfl
  | stop => rfl
  | cycle => rfl
  | tick => rfl
  | fstep => rfl

/-- Settles O1: by the fields of each concatenation. -/
theorem decodeOfEncodeIsTheOperation : Obligations.DecodeOfEncodeIsTheOperation := fun _ _ => decode_encode

/-! The other direction: every bus word is a concatenation, a write's is its own canonical form, a read's has its `value` cleared. -/

theorem canonical_membusWord (we : BitVec 1) (addr : Addr) (value : Byte) :
    (Transaction.membus (membusWord we addr value)).canonical =
      if we.getLsbD 0 then .membus (membusWord we addr value) else .membus (membusWord 0#1 addr 0#8) := by
  rw [Transaction.canonical, membusWord_we, membusWord_addr]

theorem canonical_iobusWord (we : BitVec 1) (port : Addr) (value : IoWord) :
    (Transaction.iobus (iobusWord we port value)).canonical =
      if we.getLsbD 0 then .iobus (iobusWord we port value)
      else .iobus (iobusWord 0#1 port { width := value.width, bits := 0#value.width }) := by
  show (if (iobusWord we port value).bits.getLsbD (16 + value.width) then Transaction.iobus (iobusWord we port value)
    else .iobus (iobusWord 0#1 ((iobusWord we port value).bits.extractLsb' value.width 16)
      { width := value.width, bits := 0#value.width })) = _
  rw [iobusWord_we, iobusWord_port]

/-- R54: the four codes of a command. -/
theorem command_cases (w : BitVec 2) : w = 0b00#2 ∨ w = 0b01#2 ∨ w = 0b10#2 ∨ w = 0b11#2 := by
  revert w
  decide

/-- R52, R53: the operands of what a transaction selects have the field widths of its port. -/
theorem decode_wellFormed {ioW : Nat} {t : Transaction} (h : t.onPorts ioW = true) : (decode t).wellFormed ioW = true := by
  cases t with
  | membus w =>
    obtain ⟨we, addr, v, rfl⟩ := exists_membusWord w
    rcases bit_cases we with rfl | rfl <;> rw [decode_membusWord] <;> rfl
  | iobus w =>
    obtain ⟨we, port, v, hv, rfl⟩ := exists_iobusWord w
    rcases bit_cases we with rfl | rfl <;> rw [decode_iobusWord]
    · rfl
    · exact h
  | hostcmd w => rcases command_cases w with rfl | rfl | rfl | rfl <;> rfl
  | event w =>
    rcases bit_cases w with rfl | rfl <;> rfl

/-- R52 to R55, R58: encoding what a transaction selects gives its canonical form. -/
theorem encode_decode {ioW : Nat} {t : Transaction} (h : t.onPorts ioW = true) : encode ioW (decode t) = t.canonical := by
  cases t with
  | membus w =>
    obtain ⟨we, addr, v, rfl⟩ := exists_membusWord w
    rw [decode_membusWord, canonical_membusWord]
    rcases bit_cases we with rfl | rfl <;> rfl
  | iobus w =>
    obtain ⟨we, port, v, -, rfl⟩ := exists_iobusWord w
    have hw : v.width = ioW := of_decide_eq_true h
    subst hw
    rw [decode_iobusWord, canonical_iobusWord]
    rcases bit_cases we with rfl | rfl <;> rfl
  | hostcmd w => rcases command_cases w with rfl | rfl | rfl | rfl <;> rfl
  | event w => rcases bit_cases w with rfl | rfl <;> rfl

/-- Settles O2: the word cleared is the operation encoded again, so it decodes to that operation. -/
theorem encodeOfDecodeIsTheWord : Obligations.EncodeOfDecodeIsTheWord := by
  intro ioW t h
  have hwf := decode_wellFormed h
  have henc := encode_decode h
  exact ⟨hwf, henc, by rw [← henc, decode_encode hwf]⟩

end Sys2Proof
end

section
/-! PROOFS of the encoding family: the opcode table (R58), one row for every bit pattern. -/

namespace Sys2Proof

/-- The bits that select within a format: of a bus word its top one (R52, R53), of the others all (R54, R55). -/
def Format.selectMask (ioW : Nat) : Format → Nat
  | .membus => 0x1000000
  | .iobus => 2 ^ (16 + ioW)
  | .hostcmd => 0x3
  | .event => 0x1

/-- A row of the table looks at its format's selecting bits and at no others. -/
theorem mask_of_mem_opcodeTable {ioW : Nat} {r : OpcodeRow} (h : r ∈ opcodeTable ioW) : r.mask = r.format.selectMask ioW := by
  revert r
  simp [opcodeTable, Format.selectMask]

/-- A format and its selected bits name one row at most. -/
theorem nodup_opcodeTable_keys (ioW : Nat) : ((opcodeTable ioW).map fun r => (r.format, r.bits)).Nodup := by
  have hpos : 2 ^ (16 + ioW) ≠ 0 := (Nat.two_pow_pos _).ne'
  simp [opcodeTable, hpos.symm]

theorem OpcodeRow.selects_iff (r : OpcodeRow) (t : Transaction) :
    r.selects t = true ↔ t.format = r.format ∧ t.bits &&& r.mask = r.bits := by
  simp [OpcodeRow.selects]

/-- Two rows that select one transaction look at the same bits of it, so they are one row. -/
theorem opcodeTable_selects_unique {ioW : Nat} {t : Transaction} {r r' : OpcodeRow} (hr : r ∈ opcodeTable ioW)
    (hr' : r' ∈ opcodeTable ioW) (h : r.selects t = true) (h' : r'.selects t = true) : r' = r := by
  obtain ⟨hf, hb⟩ := (r.selects_iff t).1 h
  obtain ⟨hf', hb'⟩ := (r'.selects_iff t).1 h'
  rw [mask_of_mem_opcodeTable hr, ← hf] at hb
  rw [mask_of_mem_opcodeTable hr', ← hf'] at hb'
  exact List.inj_on_of_nodup_map (nodup_opcodeTable_keys ioW) hr' hr
    (Prod.ext (hf'.symm.trans hf) (hb'.symm.trans hb))

/-- R58: clearing the `value` of a read leaves the port and the selecting bits. -/
theorem canonical_select {ioW : Nat} {t : Transaction} (h : t.onPorts ioW = true) : t.canonical.format = t.format ∧
    t.canonical.bits &&& t.format.selectMask ioW = t.bits &&& t.format.selectMask ioW := by
  cases t with
  | membus w =>
    obtain ⟨we, addr, v, rfl⟩ := exists_membusWord w
    rw [canonical_membusWord]
    rcases bit_cases we with rfl | rfl
    · exact ⟨rfl, (membusWord_select 0#1 addr 0#8).trans (membusWord_select 0#1 addr v).symm⟩
    · exact ⟨rfl, rfl⟩
  | iobus w =>
    obtain ⟨we, port, v, -, rfl⟩ := exists_iobusWord w
    have hw : v.width = ioW := of_decide_eq_true h
    subst hw
    rw [canonical_iobusWord]
    rcases bit_cases we with rfl | rfl
    · exact ⟨rfl, (iobusWord_select 0#1 port ⟨v.width, 0#v.width⟩).trans (iobusWord_select 0#1 port v).symm⟩
    · exact ⟨rfl, rfl⟩
  | hostcmd w => exact ⟨rfl, rfl⟩
  | event w => exact ⟨rfl, rfl⟩

/-- A row selects a transaction exactly when it selects its canonical form. -/
theorem selects_canonical_iff {ioW : Nat} {t : Transaction} {r : OpcodeRow} (h : t.onPorts ioW = true)
    (hr : r ∈ opcodeTable ioW) : r.selects t.canonical = true ↔ r.selects t = true := by
  obtain ⟨hf, hb⟩ := canonical_select h
  rw [r.selects_iff, r.selects_iff, hf, mask_of_mem_opcodeTable hr]
  refine and_congr_right fun e => ?_
  rw [← e, hb]

/-- Every operation has its row: the rows of Laws/PerInstr.lean, all ten. -/
theorem tableRow (i : Instr) : Laws.TableRow.Statement i := by
  cases i with
  | memRead addr => exact Laws.TableRow.memRead addr
  | memWrite addr v => exact Laws.TableRow.memWrite addr v
  | ioRead port => exact Laws.TableRow.ioRead port
  | ioWrite port v => exact Laws.TableRow.ioWrite port v
  | reset => exact Laws.TableRow.reset
  | start => exact Laws.TableRow.start
  | stop => exact Laws.TableRow.stop
  | cycle => exact Laws.TableRow.cycle
  | tick => exact Laws.TableRow.tick
  | fstep => exact Laws.TableRow.fstep

/-- Settles O3: the row of the decoded operation selects that operation's word, so it selects the transaction, and it alone does. -/
theorem everyPatternSelectsExactlyOneOperation : Obligations.EveryPatternSelectsExactlyOneOperation := by
  refine ⟨fun ioW t h => ?_, decode_membusWord 0#1, decode_iobusWord 0#1⟩
  obtain ⟨r, hr, hname, hsel⟩ := tableRow (decode t) ioW (decode_wellFormed h)
  rw [encode_decode h, selects_canonical_iff h hr] at hsel
  exact ⟨r, hr, hsel, hname, fun r' hr' hsel' => opcodeTable_selects_unique hr hr' hsel hsel'⟩

end Sys2Proof
end

section
/-! PROOFS of the encoding family: the interface lines an operation drives (R51, R101). -/

namespace Sys2Proof.Machine

/-- What an operation may have driven of the tick and the output lines, `s` before it and `t` after it. -/
structure LineFrame (i : Instr) (s t : State) : Prop where
  mRdata : (∀ a, i ≠ .memRead a) → t.mRdata = s.mRdata
  ioRdata : (∀ p, i ≠ .ioRead p) → t.ioRdata = s.ioRdata
  tick : t.tick = s.tick ∨ t.tick = false
  tick_kept : t.sched = s.sched → i ≠ .reset → i ≠ .stop → t.tick = s.tick
  acked : i = .reset ∨ i = .stop ∨ i = .cycle → t.cmdAck = true ∧ t.cmdErr = false
  fstep_acked : i = .fstep → s.sched = .runFree → t.sched = .halted → t.cmdAck = true ∧ t.cmdErr = false
  fstep_kept : i = .fstep → t.sched = s.sched → t.cmdAck = s.cmdAck ∧ t.cmdErr = s.cmdErr
  reply_kept : i = .tick ∨ (∃ a, i = .memRead a) ∨ (∃ a v, i = .memWrite a v) ∨ (∃ p, i = .ioRead p) ∨ (∃ p v, i = .ioWrite p v) →
    t.cmdAck = s.cmdAck ∧ t.cmdErr = s.cmdErr

/-- R51, R101: every operation keeps to its lines, around any core. -/
theorem serve_lineFrame (C : CoreFns) (i : Instr) (s : State) : LineFrame i s (serve C i s) := by
  obtain ⟨m, k, d, hcycle, -⟩ := cycle_frame C s
  cases i with
  | memRead addr => constructor <;> simp [serve]
  | memWrite addr v =>
    obtain ⟨m, e⟩ := busWrite_frame s addr v
    constructor <;> simp [serve, e]
  | ioRead port =>
    obtain ⟨d, e⟩ := portRead_frame s port
    constructor <;> simp [serve, e]
  | ioWrite port v =>
    obtain ⟨d, e⟩ := portWrite_frame s port v
    constructor <;> simp [serve, e]
  | reset => constructor <;> simp [serve, resetOp, restart]
  | start =>
    rcases startOp_cases s with ⟨hr, e⟩ | ⟨hr, -, e⟩ | ⟨hr, -, e⟩
    · constructor <;> simp [serve, e]
    · have hs : .runPaced ≠ s.sched := fun h => by rw [← h] at hr; cases hr
      constructor <;> simp [serve, e, hs]
    · have hs : .runFree ≠ s.sched := fun h => by rw [← h] at hr; cases hr
      constructor <;> simp [serve, e, hs]
  | stop => constructor <;> simp [serve, stopOp, enterHalted, forceHalt]
  | cycle => constructor <;> simp [serve, cycleOp, hcycle]
  | tick =>
    rcases tickOp_cases C s with ⟨-, e⟩ | ⟨hs, -, e⟩ | ⟨-, -, e⟩
    · constructor <;> simp [serve, e]
    · constructor <;> simp [serve, e, enterHalted, hs]
    · constructor <;> simp [serve, e, hcycle]
  | fstep =>
    rcases fstepOp_cases C s with ⟨hs, e⟩ | ⟨hs, -, e⟩ | ⟨hs, -, e⟩
    · constructor <;> simp [serve, e, hs]
    · constructor <;> simp [serve, e, enterHalted, hs]
    · constructor <;> simp [serve, e, hcycle, hs]

/-- Settles O46: the requests stand, and the rest is the frame of the operations over the lines. -/
theorem operationsDriveOnlyTheirOwnLines : Obligations.OperationsDriveOnlyTheirOwnLines := by
  intro C i s
  have hq := serve_requests C s i
  have hf := serve_lineFrame C i s
  exact ⟨congrArg Requests.inCore hq, congrArg Requests.memReq hq, congrArg Requests.ioReq hq, congrArg Requests.cmdReq hq,
    hf.mRdata, hf.ioRdata, hf.tick, hf.tick_kept, hf.acked, hf.fstep_acked, hf.fstep_kept, hf.reply_kept⟩

end Sys2Proof.Machine
end

section
/-! PROOFS of the encoding family: a word placed for the next step (R55, log 23). -/

namespace Sys2Proof.Machine

/-- R31: `CoreExecute` may issue whatever a MEMBUS word selects. -/
theorem mayIssue_execute_membus (w : BitVec 25) : mayIssue .execute (decode (.membus w)) = true := by
  show mayIssue .execute (decodeMembus w) = true
  unfold decodeMembus
  split <;> rfl

/-- R31: `CoreExecute` may issue whatever an IOBUS word selects. -/
theorem mayIssue_execute_iobus (w : IobusWord) : mayIssue .execute (decode (.iobus w)) = true := by
  show mayIssue .execute (decodeIobus w) = true
  unfold decodeIobus
  split <;> rfl

/-- The state from which a placed transaction is served, but for the requests and the tick: R55 asks for RunFree for an FSTEP. -/
def servedFrom (t : Transaction) (s : State) : State :=
  if decode t = .fstep then s.withSched .runFree else s

theorem servedFrom_of_mayIssue {t : Transaction} {f : CoreCall} (h : mayIssue f (decode t) = true) (s : State) :
    servedFrom t s = s := by
  refine if_neg fun e => ?_
  rw [e] at h
  cases f <;> cases h

theorem servedFrom_hostcmd (w : BitVec 2) (s : State) : servedFrom (.hostcmd w) s = s := by
  rcases command_cases w with rfl | rfl | rfl | rfl <;> rfl

/-- A transaction placed is the one the next boundary chooses, on the given state but for `S`, the requests and the tick. -/
theorem arbitrate_present (t : Transaction) (s : State) :
    ∃ q b, arbitrate (present t s) = (some t, ((servedFrom t s).withRequests q).withTick b) := by
  cases t with
  | membus w =>
    have hmay := mayIssue_execute_membus w
    rw [servedFrom_of_mayIssue hmay]
    exact ⟨⟨some .execute, none, s.ioReq, s.cmdReq⟩, s.tick, arbitrate_of_busRequest rfl (busRequest_of_memReq rfl) hmay⟩
  | iobus w =>
    have hmay := mayIssue_execute_iobus w
    rw [servedFrom_of_mayIssue hmay]
    exact ⟨⟨some .execute, none, none, s.cmdReq⟩, s.tick, arbitrate_of_busRequest rfl (busRequest_of_ioReq rfl rfl) hmay⟩
  | hostcmd w =>
    rw [servedFrom_hostcmd]
    exact ⟨⟨none, s.memReq, s.ioReq, none⟩, s.tick, arbitrate_of_cmdReq rfl rfl⟩
  | event w => rcases bit_cases w with rfl | rfl <;> exact ⟨⟨none, s.memReq, s.ioReq, none⟩, false, rfl⟩

/-- A number that stands for an operation is the word of a transaction that decodes to it. -/
theorem transactionOfWord_of_decodeWordAt {ioW nbits w : Nat} {i : Instr} (h : decodeWordAt ioW nbits w = some i) :
    ∃ t, transactionOfWord ioW nbits w = .ok t ∧ decode t = i := by
  unfold decodeWordAt at h
  split at h
  · next t ht => exact ⟨t, ht, Option.some.inj h⟩
  · cases h

/-- Settles O7: placing the word presents its transaction, which the next boundary chooses. -/
theorem placedWordIsServedNext : Obligations.PlacedWordIsServedNext := by
  intro s nbits w i h
  obtain ⟨t, ht, rfl⟩ := transactionOfWord_of_decodeWordAt h
  have hplaced : s.withFetchWord nbits w = present t s := by simp only [State.withFetchWord, ht]
  obtain ⟨q, b, e⟩ := arbitrate_present t s
  refine ⟨_, hplaced ▸ step_of_some e, ?_⟩
  unfold servedFrom
  split <;> exact ⟨rfl, rfl, rfl, rfl, rfl⟩

end Sys2Proof.Machine
end

section
/-! PROOFS of the address-space family (40_address_space.md): the arm an address takes, and what MEM.READ and MEM.WRITE do in it
(R71, R73, R74, R77). -/

namespace Sys2Proof.Machine

/-- R70: the arms in the document's order, each with the bounds that take it, whatever the geometry. -/
theorem region_cases (g : Geometry) (addr : Addr) :
    (addr.toNat < g.progCap ∧ region g addr = .program) ∨
    (¬ addr.toNat < g.progCap ∧ (g.workBase ≤ addr.toNat ∧ addr.toNat < g.workBase + g.workSize) ∧ region g addr = .working) ∨
    (¬ addr.toNat < g.progCap ∧ ¬ (g.workBase ≤ addr.toNat ∧ addr.toNat < g.workBase + g.workSize) ∧
      region g addr = .unmapped) := by
  unfold region
  by_cases hp : addr.toNat < g.progCap
  · exact .inl ⟨hp, if_pos hp⟩
  · rw [if_neg hp]
    by_cases hw : g.workBase ≤ addr.toNat ∧ addr.toNat < g.workBase + g.workSize
    · exact .inr (.inl ⟨hp, hw, if_pos hw⟩)
    · exact .inr (.inr ⟨hp, hw, if_neg hw⟩)

section arms

variable {s : State} {addr : Addr}

theorem busRead_of_program (h : region s.geom addr = .program) : busRead s addr = Memory.read s.prog addr.toNat := by
  simp only [busRead, h]

theorem busRead_of_working (h : region s.geom addr = .working) :
    busRead s addr = Memory.read s.work (workOffset s.geom addr) := by
  simp only [busRead, h]

theorem busRead_of_unmapped (h : region s.geom addr = .unmapped) : busRead s addr = 0x00#8 := by
  simp only [busRead, h, unmappedRead]

theorem busWrite_of_working (v : Byte) (h : region s.geom addr = .working) :
    busWrite s addr v = s.withWork (Memory.write s.work (workOffset s.geom addr) v) := by
  simp only [busWrite, h]

theorem busWrite_of_not_working (v : Byte) (h : region s.geom addr ≠ .working) : busWrite s addr v = s := by
  rcases busWrite_cases s addr v with ⟨-, e⟩ | ⟨hw, -⟩
  · exact e
  · exact absurd hw h

end arms

/-- R71: the subtraction never borrows, and the offset is inside the store. -/
theorem workOffset_of_working {g : Geometry} {addr : Addr} (h : region g addr = .working) :
    g.workBase + workOffset g addr = addr.toNat ∧ workOffset g addr < g.workSize := by
  obtain ⟨hlow, hhigh⟩ := region_working h
  unfold workOffset
  omega

/-- Settles O10: the bounds of the arm that was taken, and the store that it reads. -/
theorem offsetsIndexExistingBytes : Obligations.OffsetsIndexExistingBytes := by
  refine fun s addr => ⟨fun hw => ?_, fun hp => ⟨(region_program_iff _ _).1 hp, busRead_of_program hp⟩⟩
  obtain ⟨hlow, hhigh⟩ := region_working hw
  obtain ⟨hsum, hoff⟩ := workOffset_of_working hw
  exact ⟨hlow, hhigh, hsum, hoff, busRead_of_working hw⟩

/-- Settles O11: the byte that each arm answers. -/
theorem memReadAnswersByRegion : Obligations.MemReadAnswersByRegion := by
  refine fun s addr => ⟨fun junk => decode_membusWord 0#1 addr junk, _, rfl, rfl, ?_⟩
  show busRead s addr = _
  rcases region_cases s.geom addr with ⟨hp, hr⟩ | ⟨hp, hw, hr⟩ | ⟨hp, hw, hr⟩
  · rw [if_pos hp, busRead_of_program hr]
  · rw [if_neg hp, if_pos hw, busRead_of_working hr, workOffset]
  · rw [if_neg hp, if_neg hw, busRead_of_unmapped hr]

/-- Settles O12: only the Working arm stores. -/
theorem memWriteStoresInTheWorkingArmOnly : Obligations.MemWriteStoresInTheWorkingArmOnly := by
  refine fun s addr v => ⟨decode_membusWord 1#1 addr v, busWrite s addr v, rfl, ?_⟩
  rcases region_cases s.geom addr with ⟨hp, hr⟩ | ⟨hp, hw, hr⟩ | ⟨hp, hw, hr⟩
  · rw [if_pos hp, busWrite_of_not_working v (hr.trans_ne nofun)]
  · rw [if_neg hp, if_pos hw, busWrite_of_working v hr]
    rfl
  · rw [if_neg hp, if_neg hw, busWrite_of_not_working v (hr.trans_ne nofun)]

/-- Settles O16: with a legal geometry those addresses are the unmapped ones. -/
theorem unmappedReadsZeroAndDiscards : Obligations.UnmappedReadsZeroAndDiscards := by
  intro s addr hg hout
  have hr : region s.geom addr = .unmapped := (region_unmapped_iff hg addr).2 hout
  refine ⟨⟨_, rfl, busRead_of_unmapped hr⟩, fun v => ?_⟩
  exact congrArg Host.Outcome.next (busWrite_of_not_working v (hr.trans_ne nofun))

/-- Settles O13: the read laws of one store, and the frame of a write. -/
theorem memWriteChangesOneByteAtMost : Obligations.MemWriteChangesOneByteAtMost := by
  refine fun s addr v => ⟨busWrite s addr v, rfl, busRead_busWrite_self s v, fun hr a => ?_,
    fun _ hne => busRead_busWrite_ne s v hne, ?_⟩
  · rw [busWrite_of_not_working v hr]
  · obtain ⟨m, e⟩ := busWrite_frame s addr v
    rw [e]
    exact ⟨rfl, rfl, rfl, rfl, rfl⟩

end Sys2Proof.Machine
end

section
/-! PROOFS of the address-space family: what an address reads after any operations whatever (R75, R76). -/

namespace Sys2Proof.Machine

/-- R12: a Program address of a machine just constructed reads the firmware's byte, 0x00 beyond a short one. -/
theorem busRead_constructed_of_program {g : Geometry} {addr : Addr} (h : region g addr = .program) (ioW : Nat) (c : Cfg)
    (fw : List Byte) : busRead (State.constructed g ioW c (Memory.ofBytes 0 fw)) addr = fw.getD addr.toNat 0x00#8 := by
  have hread := Memory.read_ofBytes fw 0 addr.toNat
  rw [Nat.zero_add] at hread
  exact (busRead_of_program h).trans hread

/-- Settles O14: the byte is there at construction, and no operation changes what a Program address reads. -/
theorem programBytesReadAsLoaded : Obligations.ProgramBytesReadAsLoaded := by
  intro g ioW fw c s hs addr haddr is
  obtain ⟨-, -, -, rfl⟩ := construct_next hs
  have hp : region g addr = .program := (region_program_iff g addr).2 haddr
  obtain ⟨t, ht, hb⟩ := busRead_execAll_of_not_working is
    (s := State.constructed g ioW (settleCfg c) (Memory.ofBytes 0 fw)) (addr := addr) (hp.trans_ne nofun)
  exact ⟨t, _, ht, rfl, hb.trans (busRead_constructed_of_program hp ioW (settleCfg c) fw)⟩

/-- The latest write over two lists of operations is the second's, from where the first leaves it. -/
theorem latest_append (addr : Addr) (b : Byte) (xs ys : List Instr) :
    Claims.latest addr b (xs ++ ys) = Claims.latest addr (Claims.latest addr b xs) ys := List.foldl_append

theorem latest_memWrite_cons (addr a : Addr) (b v : Byte) (ops : List Instr) :
    Claims.latest addr b (.memWrite a v :: ops) = Claims.latest addr (if a = addr then v else b) ops := rfl

/-- An operation that comes to nothing on the bus has no latest write: it leaves what every address reads. -/
theorem busRead_serve_of_opsOf_nil {i : Instr} {s : State} (h : Claims.opsOf i s = []) (addr : Addr) :
    busRead (serve Config.core i s) addr = Claims.latest addr (busRead s addr) (Claims.opsOf i s) := by
  rw [busRead_serve i s addr (h ▸ List.forall_mem_nil _), h]
  rfl

section working

variable {s : State} {addr : Addr} (h : region s.geom addr = .working)
include h

theorem busRead_of_work_nil (hwork : s.work = []) : busRead s addr = 0x00#8 := by
  rw [busRead_of_working h, hwork, Memory.read_nil]

theorem busRead_busWrite_of_working (a : Addr) (v : Byte) :
    busRead (busWrite s a v) addr = if a = addr then v else busRead s addr := by
  split
  case isTrue ha => rw [ha, busRead_busWrite_self s v h]
  case isFalse ha => exact busRead_busWrite_ne s v (Ne.symm ha)

/-- After the core's own bus operations a Working address reads the latest of their stores to it. -/
theorem busRead_runBus_eq_latest {α : Type} (p : BusProg α) :
    busRead (runBus p s).2 addr = Claims.latest addr (busRead s addr) (busTrace p s) := by
  induction p generalizing s with
  | done a => rfl
  | memRead a next ih => exact ih _ h
  | memWrite a v next ih =>
    rw [busTrace, latest_memWrite_cons, ← busRead_busWrite_of_working h a v]
    exact ih (by rwa [busWrite_geom])
  | ioRead port next ih =>
    obtain ⟨d, e⟩ := portRead_frame s port
    rw [runBus, busTrace, e]
    exact ih _ h
  | ioWrite port v next ih =>
    obtain ⟨d, e⟩ := portWrite_frame s port v
    rw [runBus, busTrace, e]
    exact ih h

theorem busRead_cycle_eq_latest (C : CoreFns) : busRead (cycle C s) addr =
    Claims.latest addr (busRead s addr) (busTrace (C.execute s.core) (logUpcoming C s)) := by
  have hlog : region (logUpcoming C s).geom addr = .working := by
    rcases logUpcoming_cases C s with ⟨-, e⟩ | ⟨-, e⟩ <;> rw [e] <;> exact h
  calc busRead (cycle C s) addr
      = busRead (runBus (C.execute s.core) (logUpcoming C s)).2 addr := busRead_finishStep _ _ addr
    _ = Claims.latest addr (busRead (logUpcoming C s) addr) (busTrace (C.execute s.core) (logUpcoming C s)) :=
        busRead_runBus_eq_latest hlog _
    _ = _ := by rw [busRead_logUpcoming]

/-- R13, R93: RESET zeroes every Working byte. -/
theorem busRead_resetOp (C : CoreFns) : busRead (resetOp C s) addr = 0x00#8 :=
  busRead_of_work_nil (s := resetOp C s) h rfl

/-- R76 for one operation: of what it comes to on the bus, the latest store to a Working address is what that address then reads. -/
theorem busRead_serve_eq_latest (i : Instr) :
    busRead (serve Config.core i s) addr = Claims.latest addr (busRead s addr) (Claims.opsOf i s) := by
  cases i with
  | memRead a => rfl
  | memWrite a v => exact busRead_busWrite_of_working h a v
  | ioRead port => exact busRead_portRead s port addr
  | ioWrite port v => exact busRead_portWrite s port v addr
  | reset => exact busRead_resetOp h Config.core
  | start => exact busRead_serve .start s addr (by simp [leavesByte, Claims.opsOf])
  | stop => rfl
  | cycle => exact busRead_cycle_eq_latest h Config.core
  | tick =>
    by_cases hon : s.sched = .runPaced ∧ haltPred Config.core s = false
    · have e : tickOp Config.core s = cycle Config.core s := by simp [tickOp, hon]
      rw [serve, e, Claims.opsOf, if_pos hon]
      exact busRead_cycle_eq_latest h Config.core
    · exact busRead_serve_of_opsOf_nil (i := .tick) (if_neg hon) addr
  | fstep =>
    by_cases hon : s.sched = .runFree ∧ haltPred Config.core s = false
    · have e : fstepOp Config.core s = cycle Config.core s := by simp [fstepOp, hon]
      rw [serve, e, Claims.opsOf, if_pos hon]
      exact busRead_cycle_eq_latest h Config.core
    · exact busRead_serve_of_opsOf_nil (i := .fstep) (if_neg hon) addr

/-- So for any number of operations, the core's own stores counted. -/
theorem busRead_execAll_eq_latest (is : List Instr) :
    ∃ t, execAll is s = .next t ∧ busRead t addr = Claims.latest addr (busRead s addr) (Claims.trace is s) := by
  induction is generalizing s with
  | nil => exact ⟨s, rfl, rfl⟩
  | cons i is ih =>
    have hnext : region (serve Config.core i s).geom addr = .working := by rwa [(serve_frame Config.core i s).geom]
    obtain ⟨t, ht, hb⟩ := ih hnext
    refine ⟨t, by rw [execAll_cons, ht], ?_⟩
    rw [hb, trace_cons, latest_append, busRead_serve_eq_latest h i]

end working

/-- Settles O15: by the read after any operations, from what the address read before, 0x00 at construction; the last three clauses
are the read after one write, to this address or another, and after RESET. -/
theorem workingReadGivesTheLatestWrite : Obligations.WorkingReadGivesTheLatestWrite := by
  refine ⟨fun g ioW fw c s hs addr hw is => ?_, fun s addr => ⟨fun hw => ⟨fun is => ?_, fun v => ?_, ?_⟩, fun a v hne => ?_⟩⟩
  · obtain ⟨-, -, -, rfl⟩ := construct_next hs
    have hw' : region (State.constructed g ioW (settleCfg c) (Memory.ofBytes 0 fw)).geom addr = .working := hw
    obtain ⟨t, ht, hb⟩ := busRead_execAll_eq_latest hw' is
    rw [busRead_of_work_nil hw' rfl] at hb
    exact ⟨t, _, ht, rfl, hb⟩
  · obtain ⟨t, ht, hb⟩ := busRead_execAll_eq_latest hw is
    exact ⟨t, _, ht, rfl, hb⟩
  · exact ⟨_, _, rfl, rfl, busRead_busWrite_self s v hw⟩
  · exact ⟨_, _, rfl, rfl, busRead_resetOp hw Config.core⟩
  · exact ⟨_, rfl, busRead_busWrite_ne s v hne.symm⟩

end Sys2Proof.Machine
end

section
/-! PROOFS of the port family (41_io_bus.md): what IO.READ answers and what the two operations leave (R80, R82, R83). -/

namespace Sys2Proof.Machine

/-- R80, R82: every port answers the intentional constant, as wide as the port. -/
theorem exec_ioRead_answers_zero (s : State) (port : Addr) :
    ∃ t, exec (.ioRead port) s = .next t ∧ t.ioRdata = { width := s.ioW, bits := 0#s.ioW } :=
  ⟨_, rfl, rfl⟩

/-- R83: of a port write the block keeps at most its record. -/
theorem portWrite_arch (s : State) (port : Addr) (v : IoWord) : (portWrite s port v).arch =
    { s.arch with diag := if s.cfg.debug then s.diag ++ [.ioWrite port (portWord s.ioW v)] else s.diag } := by
  rcases portWrite_cases s port v with ⟨hd, e⟩ | ⟨hd, e⟩ <;> rw [e, hd] <;> rfl

/-- R24: the port's width does not change with what is written to it. -/
@[simp] theorem portWrite_ioW (s : State) (port : Addr) (v : IoWord) : (portWrite s port v).ioW = s.ioW := by
  obtain ⟨d, e⟩ := portWrite_frame s port v
  rw [e]

/-- Settles O19: by the fields of the concatenation, the constant answer, and the state after a read. -/
theorem ioReadAnswersZero : Obligations.IoReadAnswersZero := by
  refine fun s port => ⟨fun junk => decode_iobusWord 0#1 port junk, ?_⟩
  obtain ⟨t, ht, harch⟩ := exec_ioRead_arch s port
  obtain ⟨u, hu, hzero⟩ := exec_ioRead_answers_zero s port
  obtain rfl : t = u := Host.Outcome.next.inj (ht.symm.trans hu)
  exact ⟨t, ht, hzero, harch⟩

/-- Settles O20: by the fields of the concatenation, the state after a write, and the constant answer of any port read after it. -/
theorem ioWriteDiscardsItsWord : Obligations.IoWriteDiscardsItsWord := by
  refine fun s port v => ⟨decode_iobusWord 1#1 port v, fun hwidth => ?_, portWrite s port v, rfl, portWrite_arch s port v, fun q => ?_⟩
  · rw [← hwidth, portWord_of_width]
  · rw [← portWrite_ioW s port v]
    exact exec_ioRead_answers_zero (portWrite s port v) q

end Sys2Proof.Machine
end

section
/-! PROOFS of the scheduler family (42_scheduler.md): RESET, START and STOP (R93 to R95), an equation per case. -/

namespace Sys2Proof.Machine

/-- The driver that `CFG.interval` names (R94). -/
def State.driver (s : State) : Sched := if s.cfg.interval then .runPaced else .runFree

theorem startOp_of_running {s : State} (h : s.sched.running = true) : startOp s = (s.withCv true).withReply true true := by
  rw [startOp, if_pos h, takeException]

/-- R94, R101: with no driver running START selects the configured one, and acknowledges itself in paced mode only. -/
theorem startOp_of_not_running {s : State} (h : s.sched.running = false) :
    startOp s = ((s.withSched s.driver).withTick false).withReply s.cfg.interval false := by
  unfold startOp State.driver
  rw [h]
  cases s.cfg.interval <;> rfl

/-- Settles O22: the fields that `restart` sets, and the read of an empty Working store. -/
theorem resetRestartsTheBlock : Obligations.ResetRestartsTheBlock :=
  ⟨rfl, fun s => ⟨resetOp Config.core s, rfl, rfl, fun _ hw => busRead_resetOp hw Config.core, rfl, rfl, rfl⟩⟩

/-- Settles O23: after RESET the Working store is empty already, so the second reset of the core sees the same state. -/
theorem resetTwiceIsResetOnce : Obligations.ResetTwiceIsResetOnce := by
  rintro C s r rfl hidem
  have hwork : (serve C .reset s).withWork [] = serve C .reset s := rfl
  calc resetOp C (serve C .reset s)
      = ((((serve C .reset s).withCore (serve C .reset s).core).withSched .idle).withTick false).withReply true false := by
        rw [resetOp, restart, hwork, hidem]
    _ = serve C .reset s := rfl

/-- Settles O24: the two cases of START, by whether a driver runs. -/
theorem startSelectsADriverOrViolates : Obligations.StartSelectsADriverOrViolates := by
  refine ⟨rfl, fun s => ⟨rfl, startOp s, rfl, fun h => ?_, fun h => ?_⟩⟩
  · rw [startOp_of_running ((Sched.running_iff _).2 h)]
    exact ⟨rfl, rfl, rfl, rfl⟩
  · have hr : s.sched.running = false := by rcases h with h | h <;> rw [h] <;> rfl
    rw [startOp_of_not_running hr]
    exact ⟨rfl, rfl, rfl, rfl⟩

/-- STOP after STOP changes nothing more (R95). -/
theorem stopOp_stopOp (s : State) : stopOp (stopOp s) = stopOp s := by
  cases s
  rfl

/-- Settles O25: the fields that STOP sets. -/
theorem stopForcesTheHaltedCondition : Obligations.StopForcesTheHaltedCondition :=
  ⟨rfl, fun s => ⟨stopOp s, rfl, rfl, rfl, rfl, rfl, congrArg Host.Outcome.next (stopOp_stopOp s)⟩⟩

/-- R152, R139: with no driver and nothing presented every run stays where it is. -/
theorem run_of_not_running {s : State} (h : s.noRequest) (ht : s.tick = false) (hs : s.sched.running = false) (n : Nat) :
    Host.Core.run Sys2Proof.core n s = .next s := by
  have hstep : step s = .next s := by rw [step_eq_boundary, boundary_of_not_running _ h ht hs]
  induction n with
  | zero => rfl
  | succ n ih => rw [run_succ_of_step hstep, ih]

/-- Settles O26: the command is served before any tick, and STOP leaves no tick, no driver and nothing presented. -/
theorem nothingExecutesAfterStop : Obligations.NothingExecutesAfterStop := by
  intro s hf hc
  have hstep : step s = .next (stopOp (s.withCmdReq none)) := step_of_some (arbitrate_of_cmdReq hf hc)
  have hquiet : (stopOp (s.withCmdReq none)).noRequest := ⟨hf, rfl⟩
  exact ⟨_, hstep, rfl, rfl, rfl, run_of_not_running hquiet rfl rfl⟩

end Sys2Proof.Machine
end

section
/-! PROOFS of the scheduler family: `Cycle()` (R97), what it writes and what it leaves. -/

namespace Sys2Proof.Machine

variable (C : CoreFns) (s : State)

@[simp] theorem cycle_sched : (cycle C s).sched = s.sched := by
  obtain ⟨m, k, d, e, -⟩ := cycle_frame C s
  rw [e]

@[simp] theorem cycle_cv : (cycle C s).cv = s.cv := by
  obtain ⟨m, k, d, e, -⟩ := cycle_frame C s
  rw [e]

/-- R20: the core's own run does not touch the configuration. -/
theorem runBus_logUpcoming_cfg {α : Type} (p : BusProg α) : (runBus p (logUpcoming C s)).2.cfg = s.cfg := by
  obtain ⟨m, d, e⟩ := runBus_frame p (logUpcoming C s)
  rw [e]
  rcases logUpcoming_cases C s with ⟨-, h⟩ | ⟨-, h⟩ <;> rw [h]
  rfl

/-- R97: after the execution, on `Ok` a record of `K` in debug mode, on a fault the forced flag and one Error record. -/
theorem finishStep_arch (st : Status) : (finishStep st s).arch =
    match st with
    | .ok => { s.arch with diag := if s.cfg.debug then s.diag ++ [.stateDump s.core] else s.diag }
    | .fault info => { s.arch with core := { s.core with halted := true }, diag := s.diag ++ [.error info] } := by
  cases st with
  | ok =>
    unfold finishStep
    cases s.cfg.debug <;> rfl
  | fault info => rfl

/-- A step whose execution gave `r` and left `s1`. -/
theorem cycle_of_runBus {C : CoreFns} {s s1 : State} {r : CoreResult}
    (h : runBus (C.execute s.core) (logUpcoming C s) = (r, s1)) :
    cycle C s = finishStep r.status (s1.withCore (applyResult r s.core)) := by
  simp only [cycle, h]

/-- Settles O27: the end of the step on what the execution left, whose debug mode is that of the state before. -/
theorem cycleIsOneExecuteStep : Obligations.CycleIsOneExecuteStep := by
  refine ⟨rfl, fun s s1 r h => ?_⟩
  have hcfg : s1.cfg = s.cfg := by
    rw [← runBus_logUpcoming_cfg Config.core s (Config.core.execute s.core)]
    exact (congrArg (·.2.cfg) h).symm
  refine ⟨cycleOp Config.core s, rfl, cycle_sched _ s, cycle_cv _ s, rfl, rfl, ?_⟩
  show (cycle Config.core s).arch = _
  rw [cycle_of_runBus h, finishStep_arch, State.withCore_cfg, hcfg]
  cases r.status <;> rfl

/-- Settles O38: the frame of a step. -/
theorem coreCannotReachTheScheduler : Obligations.CoreCannotReachTheScheduler := by
  intro C s
  obtain ⟨m, k, d, e, -⟩ := cycle_frame C s
  rw [e]

/-- Settles O39: the core's own stores are all that changes a byte, and outside the window no store does. -/
theorem stepChangesOnlyTheBytesItStores : Obligations.StepChangesOnlyTheBytesItStores := by
  rintro C s addr (h | hr)
  · exact busRead_cycle C s addr h
  · exact busRead_serve_of_not_working C .cycle hr

end Sys2Proof.Machine
end

section
/-! PROOFS of the scheduler family: the two driver events (R91, R98 to R100) and the transition table (R92). -/

namespace Sys2Proof.Machine

variable (C : CoreFns) {s : State}

theorem tickOp_of_not_runPaced (h : s.sched ≠ .runPaced) : tickOp C s = s := by
  rcases tickOp_cases C s with ⟨-, e⟩ | ⟨hs, -, -⟩ | ⟨hs, -, -⟩
  · exact e
  all_goals exact absurd hs h

theorem tickOp_of_runPaced (h : s.sched = .runPaced) : tickOp C s = if haltPred C s then enterHalted s else cycle C s := by
  simp only [tickOp, h]

theorem fstepOp_of_not_runFree (h : s.sched ≠ .runFree) : fstepOp C s = s := by
  rcases fstepOp_cases C s with ⟨-, e⟩ | ⟨hs, -, -⟩ | ⟨hs, -, -⟩
  · exact e
  all_goals exact absurd hs h

theorem fstepOp_of_runFree (h : s.sched = .runFree) :
    fstepOp C s = if haltPred C s then (enterHalted s).withReply true false else cycle C s := by
  simp only [fstepOp, h]

/-- Settles O28: TICK by the scheduler's state, then by the halt predicate. -/
theorem tickHaltsOrExecutesOneStep : Obligations.TickHaltsOrExecutesOneStep := by
  refine ⟨rfl, fun s => ⟨tickOp Config.core s, cycleOp Config.core s, rfl, rfl, tickOp_of_not_runPaced _, fun hs => ?_⟩⟩
  show if haltPred Config.core s = true then _ else _
  rw [tickOp_of_runPaced _ hs]
  split
  · exact ⟨rfl, rfl⟩
  · exact ⟨rfl, rfl, (cycle_sched _ s).trans hs⟩

/-- Settles O29: FSTEP by the scheduler's state, then by the halt predicate. -/
theorem fstepHaltsOrExecutesOneStep : Obligations.FstepHaltsOrExecutesOneStep := by
  refine ⟨rfl, fun s => ⟨fstepOp Config.core s, cycleOp Config.core s, rfl, rfl, fstepOp_of_not_runFree _, fun hs => ?_⟩⟩
  show if haltPred Config.core s = true then _ else _
  rw [fstepOp_of_runFree _ hs]
  split
  · exact ⟨rfl, rfl, rfl⟩
  · exact ⟨rfl, rfl, (cycle_sched _ s).trans hs⟩

/-- R100: a driver event that halts asks the core for a disassembly at most. -/
theorem exec_not_mem_driverRequests (h : haltPred C s = true) : CoreRequest.exec ∉ driverRequests C s := by
  rw [driverRequests, h, if_pos rfl, List.append_nil, haltPredRequests]
  cases s.core.halted <;> decide

/-- Settles O31: the halting arm of each driver event. -/
theorem haltingInstructionIsNeverExecuted : Obligations.HaltingInstructionIsNeverExecuted := by
  refine fun C s hh => ⟨fun hs => ?_, fun hs => ?_⟩
  · rw [serve, tickOp_of_runPaced C hs, if_pos hh, coreRequests, if_pos hs]
    exact ⟨rfl, exec_not_mem_driverRequests C hh⟩
  · rw [serve, fstepOp_of_runFree C hs, if_pos hh, coreRequests, if_pos hs]
    exact ⟨rfl, exec_not_mem_driverRequests C hh⟩

/-- R92: the next `S` of every operation is the cell of the table. -/
theorem serve_sched (i : Instr) (s : State) :
    (serve C i s).sched = Claims.nextSched i s.sched s.cfg.interval (haltPred C s) := by
  cases i with
  | memRead addr => rfl
  | memWrite addr v =>
    obtain ⟨m, e⟩ := busWrite_frame s addr v
    rw [serve, e]
    rfl
  | ioRead port =>
    obtain ⟨d, e⟩ := portRead_frame s port
    rw [serve, e]
    rfl
  | ioWrite port v =>
    obtain ⟨d, e⟩ := portWrite_frame s port v
    rw [serve, e]
    rfl
  | reset => rfl
  | start =>
    cases hs : s.sched
    case runPaced | runFree =>
      rw [serve, startOp_of_running (by rw [hs]; rfl)]
      exact hs
    case idle | halted =>
      rw [serve, startOp_of_not_running (by rw [hs]; rfl)]
      rfl
  | stop => rfl
  | cycle => exact cycle_sched C s
  | tick =>
    cases hs : s.sched
    case runPaced =>
      rw [serve, tickOp_of_runPaced C hs]
      cases haltPred C s
      · exact (cycle_sched C s).trans hs
      · rfl
    case idle | runFree | halted =>
      rw [serve, tickOp_of_not_runPaced C (by rw [hs]; nofun)]
      exact hs
  | fstep =>
    cases hs : s.sched
    case runFree =>
      rw [serve, fstepOp_of_runFree C hs]
      cases haltPred C s
      · exact (cycle_sched C s).trans hs
      · rfl
    case idle | runPaced | halted =>
      rw [serve, fstepOp_of_not_runFree C (by rw [hs]; nofun)]
      exact hs

/-- Settles O30: the cells of the table, the frame of `CV`, and the two events where they are not enabled. -/
theorem transitionTableHolds : Obligations.TransitionTableHolds := by
  refine fun C i s => ⟨serve_sched C i s, ?_, ?_⟩
  · simp only [(serve_frame C i s).cv, Sched.running_iff]
  · rintro (⟨rfl, hs⟩ | ⟨rfl, hs⟩)
    · exact tickOp_of_not_runPaced C hs
    · exact fstepOp_of_not_runFree C hs

end Sys2Proof.Machine
end

section
/-! PROOFS of the scheduler family: the driver's first event after START (R94, R99, R104), and how soon it comes (log 11). -/

namespace Sys2Proof.Machine

variable (C : CoreFns) {s : State}

theorem State.withTick_of_tick {b : Bool} (h : s.tick = b) : s.withTick b = s := by
  subst h
  rfl

/-- R104, log 11: in RunPaced with no pulse pending the second boundary is a TICK on the state before. -/
theorem boundary_boundary_of_runPaced (h : s.noRequest) (ht : s.tick = false) (hs : s.sched = .runPaced) :
    boundary C (boundary C s) = tickOp C s := by
  have hn : (s.withTick true).noRequest := h
  have hback : (s.withTick true).withTick false = s := State.withTick_of_tick ht
  rw [boundary_of_runPaced C h ht hs, boundary_of_tick C hn rfl, hback]

/-- Settles O34: the boundary of each driver. -/
theorem driverEventsAreServed : Obligations.DriverEventsAreServed := by
  refine fun s h ht => ⟨fun hs => ?_, fun hs => ⟨_, step_eq_boundary s, ?_⟩⟩
  · rw [step_eq_boundary, boundary_of_runFree _ h ht hs, exec_eq_serve, serve]
  · rw [step_eq_boundary, boundary_boundary_of_runPaced _ h ht hs, exec_eq_serve, serve]

/-- The halt predicate sees the core, the geometry and the two stores. -/
theorem haltPred_congr {s t : State} (hc : s.core = t.core) (hg : s.geom = t.geom) (hp : s.prog = t.prog)
    (hw : s.work = t.work) : haltPred C s = haltPred C t := by
  rw [haltPred, haltPred, disasmText_congr C hc hg hp hw, hc]

/-- R91, R99: where the halt predicate holds, an accepted START ends at the driver's first event with nothing executed. -/
theorem boundaries_startOp_of_haltPred (h : s.noRequest) (hr : s.sched.running = false) (hh : haltPred C s = true) :
    (boundaries C (if s.cfg.interval then 2 else 1) (startOp s)).arch = { s.arch with sched := .halted } := by
  have hstart := startOp_of_not_running hr
  have hn : (startOp s).noRequest := by rw [hstart]; exact h
  have ht : (startOp s).tick = false := by rw [hstart]; rfl
  have hs : (startOp s).sched = s.driver := by rw [hstart]; rfl
  have hpred : haltPred C (startOp s) = haltPred C s := by
    rw [hstart]
    exact haltPred_congr C rfl rfl rfl rfl
  have harch : (enterHalted (startOp s)).arch = { s.arch with sched := .halted } := by rw [hstart]; rfl
  rw [State.driver] at hs
  split at hs
  case isTrue hi =>
    calc (boundaries C (if s.cfg.interval then 2 else 1) (startOp s)).arch
        = (boundary C (boundary C (startOp s))).arch := by rw [if_pos hi]; rfl
      _ = (enterHalted (startOp s)).arch := by
        rw [boundary_boundary_of_runPaced C hn ht hs, tickOp_of_runPaced C hs, hpred, if_pos hh]
      _ = _ := harch
  case isFalse hi =>
    calc (boundaries C (if s.cfg.interval then 2 else 1) (startOp s)).arch
        = (boundary C (startOp s)).arch := by rw [if_neg hi]; rfl
      _ = ((enterHalted (startOp s)).withReply true false).arch := by
        rw [boundary_of_runFree C hn ht hs, fstepOp_of_runFree C hs, hpred, if_pos hh]
      _ = _ := harch

/-- A run of the machine is its boundaries around this machine's core. -/
theorem run_eq_boundaries (n : Nat) (s : State) :
    Host.Core.run Sys2Proof.core n s = .next (boundaries Config.core n s) := by
  induction n generalizing s with
  | zero => rfl
  | succ n ih => rw [run_succ_of_step (step_eq_boundary s), ih, boundaries]

/-- Settles O35: the flag alone makes the halt predicate true, and `S` was Halted before START too. -/
theorem startWithTheFlagSetEndsAtOnce : Obligations.StartWithTheFlagSetEndsAtOnce := by
  intro s h hs hflag
  have hr : s.sched.running = false := by rw [hs]; rfl
  have hh : haltPred Config.core s = true := by rw [haltPred, hflag, Bool.true_or]
  have hrun : (startOp s).sched.running = true := by
    rw [startOp_of_not_running hr]
    cases hi : s.cfg.interval <;> simp [State.driver, hi, Sched.running]
  have harch : { s.arch with sched := .halted } = s.arch := by rw [← hs]; rfl
  exact ⟨startOp s, _, rfl, hrun, (boundaries_startOp_of_haltPred _ h hr hh).trans harch, run_eq_boundaries _ _⟩

/-- Settles O36: RESET leaves `S` Idle and the configuration as it was, and the nop makes the halt predicate true. -/
theorem nopAtTheResetVectorHaltsAtOnce : Obligations.NopAtTheResetVectorHaltsAtOnce := by
  rintro C s r h rfl hnop
  have hh : haltPred C (serve C .reset s) = true := by rw [haltPred, hnop, Bool.or_true]
  have hn : (serve C .reset s).noRequest := h
  exact boundaries_startOp_of_haltPred C hn rfl hh

end Sys2Proof.Machine
end

section
/-! PROOFS of the scheduler family: what waits while a core function is in progress (R102). -/

namespace Sys2Proof.Machine

/-- A state with another host command presented, another tick and another `S`: what no core function looks at. -/
def State.withWaiting (s : State) (c : Option (BitVec 2)) (b : Bool) (x : Sched) : State :=
  ((s.withCmdReq c).withTick b).withSched x

variable (C : CoreFns) (s : State) (c : Option (BitVec 2)) (b : Bool) (x : Sched)

theorem busWrite_withWaiting (addr : Addr) (v : Byte) :
    busWrite (s.withWaiting c b x) addr v = (busWrite s addr v).withWaiting c b x := by
  have hgeom : (s.withWaiting c b x).geom = s.geom := rfl
  unfold busWrite
  rw [hgeom]
  cases region s.geom addr <;> rfl

theorem portRead_withWaiting (port : Addr) : portRead (s.withWaiting c b x) port = (portRead s port).withWaiting c b x :=
  (apply_ite (State.withWaiting · c b x) (s.cfg.debug = true) (s.emit _) s).symm

theorem portWrite_withWaiting (port : Addr) (v : IoWord) :
    portWrite (s.withWaiting c b x) port v = (portWrite s port v).withWaiting c b x :=
  (apply_ite (State.withWaiting · c b x) (s.cfg.debug = true) (s.emit _) s).symm

/-- An operation that a core function may issue, a bus operation, neither reads nor writes what waits. -/
theorem serve_withWaiting {f : CoreCall} {i : Instr} (h : mayIssue f i = true) :
    serve C i (s.withWaiting c b x) = (serve C i s).withWaiting c b x := by
  cases i with
  | memRead addr => rfl
  | memWrite addr v => exact busWrite_withWaiting s c b x addr v
  | ioRead port => exact congrArg (State.withIoRdata · (portValue s.ioW port)) (portRead_withWaiting s c b x port)
  | ioWrite port v => exact portWrite_withWaiting s c b x port v
  | reset | start | stop | cycle | tick | fstep => cases f <;> cases h

/-- The transaction on the core's ports is the same whatever waits. -/
theorem busRequest_withWaiting :
    busRequest (s.withWaiting c b x) = (busRequest s).map (Prod.map id (State.withWaiting · c b x)) := by
  have hmem : (s.withWaiting c b x).memReq = s.memReq := rfl
  have hio : (s.withWaiting c b x).ioReq = s.ioReq := rfl
  unfold busRequest
  rw [hmem, hio]
  cases s.memReq <;> cases s.ioReq <;> rfl

/-- Inside a core function a boundary neither reads nor writes what waits. -/
theorem boundary_withWaiting {f : CoreCall} (hf : s.inCore = some f) :
    boundary C (s.withWaiting c b x) = (boundary C s).withWaiting c b x := by
  have hf' : (s.withWaiting c b x).inCore = some f := hf
  simp only [boundary, arbitrate, hf, hf', arbitrateInCore, busRequest_withWaiting]
  cases busRequest s with
  | none => rfl
  | some request =>
    by_cases hmay : mayIssue f (decode request.1) = true
    · simp only [Option.map_some, Prod.map, id, hmay, if_true]
      exact serve_withWaiting C request.2 c b x hmay
    · simp only [Option.map_some, Prod.map, id, hmay]
      rfl

/-- Settles O54: with a core function in progress, the boundary inside it. -/
theorem commandsWaitForTheCoreFunction : Obligations.CommandsWaitForTheCoreFunction := by
  intro C s h c b x
  obtain ⟨f, hf⟩ := Option.ne_none_iff_exists'.1 h
  exact boundary_withWaiting C s c b x hf

end Sys2Proof.Machine
end

section
/-! PROOFS of the exception family (60_exceptions.md): every operation completes (R120, R124), a host command beside a pending tick
(R126), and taking an ExecutionFault (R123, R128). -/

namespace Sys2Proof.Machine

/-- Settles O8: no arm of `exec` faults or is refused, so a step is the boundary around this machine's core. -/
theorem execServesOnThisCore : Obligations.ExecServesOnThisCore := ⟨exec_eq_serve, step_eq_boundary⟩

/-- R23, R126: from RunPaced with a tick pending a host command keeps the driver and the tick, or ends both. -/
theorem serve_hostcmd_tick_iff (C : CoreFns) {s : State} (ht : s.tick = true) (hs : s.sched = .runPaced) (c : BitVec 2) :
    (serve C (decode (.hostcmd c)) s).tick = true ↔ (serve C (decode (.hostcmd c)) s).sched = .runPaced := by
  have hkept : ∀ i, i ≠ .reset → i ≠ .stop → (serve C i s).sched = s.sched →
      ((serve C i s).tick = true ↔ (serve C i s).sched = .runPaced) := fun i hr hp he =>
    iff_of_true (((serve_lineFrame C i s).tick_kept he hr hp).trans ht) (he.trans hs)
  rcases command_cases c with rfl | rfl | rfl | rfl
  · exact iff_of_false nofun nofun
  · refine hkept .start nofun nofun ?_
    rw [serve_sched, hs]
    rfl
  · exact iff_of_false nofun nofun
  · exact hkept .cycle nofun nofun (cycle_sched C s)

/-- Settles O32: the command is chosen before the tick, which stays on its line meanwhile. -/
theorem pendingTickSurvivesOnlyInRunPaced : Obligations.PendingTickSurvivesOnlyInRunPaced := by
  intro s c hf hc ht hs
  have hstep : step s = exec (decode (.hostcmd c)) (s.withCmdReq none) := step_of_some (arbitrate_of_cmdReq hf hc)
  exact ⟨_, hstep.trans (exec_eq_serve _ _), hstep, serve_hostcmd_tick_iff Config.core (s := s.withCmdReq none) ht hs c⟩

/-- R97, R123, R128: a step whose execution failed keeps what the execution did, with the halted flag forced and one Error record. -/
theorem cycle_arch_of_fault {C : CoreFns} {s s1 : State} {r : CoreResult} {info : Text}
    (h : runBus (C.execute s.core) (logUpcoming C s) = (r, s1)) (hr : r.status = .fault info) :
    (cycle C s).arch = { s1.arch with core := { image := r.image, halted := true }, diag := s1.diag ++ [.error info] } := by
  rw [cycle_of_runBus h, finishStep_arch, hr]
  rfl

/-- Settles O40: CYCLE is that step, acknowledged without error. -/
theorem executionFaultForcesHaltedWithoutRollback : Obligations.ExecutionFaultForcesHaltedWithoutRollback :=
  fun C s _ _ _ h hr => ⟨cycle_arch_of_fault h hr, cycle_sched C s, rfl⟩

end Sys2Proof.Machine
end

section
/-! PROOFS of the exception family: R136, debug mode changes no behaviour. A state with its diagnostics silenced behaves as the state
does, so two states that are equal when silenced behave alike. -/

namespace Sys2Proof.Machine

variable (C : CoreFns) (s : State)

@[simp] theorem State.silenced_silenced : s.silenced.silenced = s.silenced := rfl
@[simp] theorem State.silenced_geom : s.silenced.geom = s.geom := rfl
@[simp] theorem State.silenced_ioW : s.silenced.ioW = s.ioW := rfl
@[simp] theorem State.silenced_sched : s.silenced.sched = s.sched := rfl
@[simp] theorem State.silenced_core : s.silenced.core = s.core := rfl
@[simp] theorem State.silenced_inCore : s.silenced.inCore = s.inCore := rfl
@[simp] theorem State.silenced_memReq : s.silenced.memReq = s.memReq := rfl
@[simp] theorem State.silenced_ioReq : s.silenced.ioReq = s.ioReq := rfl
@[simp] theorem State.silenced_cmdReq : s.silenced.cmdReq = s.cmdReq := rfl
@[simp] theorem State.silenced_tick : s.silenced.tick = s.tick := rfl
@[simp] theorem State.silenced_withWork (m : Memory) : s.silenced.withWork m = (s.withWork m).silenced := rfl
@[simp] theorem State.silenced_withCore (k : CoreState) : s.silenced.withCore k = (s.withCore k).silenced := rfl

/-! The bus primitives: the records of the ports are all that silencing takes away. -/

@[simp] theorem busRead_silenced (addr : Addr) : busRead s.silenced addr = busRead s addr := rfl

@[simp] theorem busWrite_silenced (addr : Addr) (v : Byte) : busWrite s.silenced addr v = (busWrite s addr v).silenced := by
  unfold busWrite
  rw [State.silenced_geom]
  cases region s.geom addr <;> rfl

@[simp] theorem portRead_silenced (port : Addr) : portRead s.silenced port = (portRead s port).silenced := by
  rcases portRead_cases s port with ⟨-, e⟩ | ⟨-, e⟩ <;> rw [e] <;> rfl

@[simp] theorem portWrite_silenced (port : Addr) (v : IoWord) : portWrite s.silenced port v = (portWrite s port v).silenced := by
  rcases portWrite_cases s port v with ⟨-, e⟩ | ⟨-, e⟩ <;> rw [e] <;> rfl

/-! What a step of the core is made of: the core gets the same answers, and each optional record goes. -/

@[simp] theorem runReads_silenced {α : Type} (p : ReadProg α) : runReads p s.silenced = runReads p s :=
  runReads_congr p (busRead_silenced s)

@[simp] theorem disasmText_silenced : disasmText C s.silenced = disasmText C s := runReads_silenced s _

@[simp] theorem haltPred_silenced : haltPred C s.silenced = haltPred C s := by
  rw [haltPred, haltPred, disasmText_silenced, State.silenced_core]

@[simp] theorem coreReset_silenced : coreReset C s.silenced = coreReset C s := by
  rw [coreReset, coreReset, runReads_silenced, State.silenced_core]

theorem runBus_silenced {α : Type} (p : BusProg α) : runBus p s.silenced = ((runBus p s).1, (runBus p s).2.silenced) := by
  induction p generalizing s with
  | done a => rfl
  | memRead addr next ih => exact ih _ s
  | memWrite addr v next ih => simp only [runBus, busWrite_silenced, ih]
  | ioRead port next ih => simp only [runBus, portRead_silenced, State.silenced_ioW, ih]
  | ioWrite port v next ih => simp only [runBus, portWrite_silenced, ih]

@[simp] theorem logUpcoming_silenced : logUpcoming C s.silenced = (logUpcoming C s).silenced := by
  rcases logUpcoming_cases C s with ⟨-, e⟩ | ⟨-, e⟩ <;> rw [e] <;> rfl

/-- R59: an Error record is sent in either mode, so the end of a step agrees only once its own record is forgotten too. -/
theorem finishStep_silenced (st : Status) : (finishStep st s.silenced).silenced = (finishStep st s).silenced := by
  cases st with
  | ok => exact ((apply_ite State.silenced (s.cfg.debug = true) (s.emit _) s).trans (ite_self _)).symm
  | fault info => rfl

theorem cycle_silenced : (cycle C s.silenced).silenced = (cycle C s).silenced := by
  simp only [cycle, logUpcoming_silenced, State.silenced_core, runBus_silenced, State.silenced_withCore, finishStep_silenced]

/-! The operations. -/

theorem resetOp_silenced : (resetOp C s.silenced).silenced = (resetOp C s).silenced := by
  simp only [resetOp, restart, State.silenced_withWork, coreReset_silenced]
  rfl

theorem startOp_silenced : (startOp s.silenced).silenced = (startOp s).silenced := by
  rcases h : s.sched.running with - | -
  · rw [startOp_of_not_running (s := s.silenced) h, startOp_of_not_running h]
    rfl
  · rw [startOp_of_running (s := s.silenced) h, startOp_of_running h]
    rfl

theorem tickOp_silenced : (tickOp C s.silenced).silenced = (tickOp C s).silenced := by
  unfold tickOp
  rw [State.silenced_sched, haltPred_silenced]
  cases s.sched <;> cases haltPred C s
  case runPaced.false => exact cycle_silenced C s
  all_goals rfl

theorem fstepOp_silenced : (fstepOp C s.silenced).silenced = (fstepOp C s).silenced := by
  unfold fstepOp
  rw [State.silenced_sched, haltPred_silenced]
  cases s.sched <;> cases haltPred C s
  case runFree.false => exact cycle_silenced C s
  all_goals rfl

/-- What an operation does to a state, but for its diagnostics, it does to the silenced state. -/
theorem serve_silenced (i : Instr) : (serve C i s.silenced).silenced = (serve C i s).silenced := by
  cases i with
  | memRead addr => rfl
  | memWrite addr v => exact (congrArg State.silenced (busWrite_silenced s addr v) :)
  | ioRead port => exact congrArg (fun u => (u.withIoRdata (portValue s.ioW port)).silenced) (portRead_silenced s port)
  | ioWrite port v => exact (congrArg State.silenced (portWrite_silenced s port v) :)
  | reset => exact resetOp_silenced C s
  | start => exact startOp_silenced s
  | stop => rfl
  | cycle => exact congrArg (State.withReply · true false) (cycle_silenced C s)
  | tick => exact tickOp_silenced C s
  | fstep => exact fstepOp_silenced C s

/-! The boundary: the choice reads no diagnostics. -/

theorem busRequest_silenced : busRequest s.silenced = (busRequest s).map (Prod.map id State.silenced) := by
  unfold busRequest
  rw [State.silenced_memReq, State.silenced_ioReq]
  cases s.memReq <;> cases s.ioReq <;> rfl

theorem arbitrateInCore_silenced (f : CoreCall) :
    arbitrateInCore f s.silenced = Prod.map id State.silenced (arbitrateInCore f s) := by
  unfold arbitrateInCore
  rw [busRequest_silenced]
  cases busRequest s with
  | none => rfl
  | some request =>
    exact (apply_ite (Prod.map id State.silenced) (mayIssue f (decode request.1) = true) (some request.1, request.2)
      (none, s.withInCore none)).symm

theorem arbitrate_silenced : arbitrate s.silenced = Prod.map id State.silenced (arbitrate s) := by
  unfold arbitrate
  rw [State.silenced_inCore, State.silenced_cmdReq, State.silenced_tick, State.silenced_sched]
  cases s.inCore with
  | some f => exact arbitrateInCore_silenced s f
  | none =>
    cases s.cmdReq with
    | some w => rfl
    | none => cases s.tick <;> cases s.sched <;> rfl

theorem boundary_silenced : (boundary C s.silenced).silenced = (boundary C s).silenced := by
  have h := arbitrate_silenced s
  rcases e : arbitrate s with ⟨choice, s'⟩
  rw [e] at h
  cases choice with
  | none => rw [boundary_of_none C e, boundary_of_none C h, State.silenced_silenced]
  | some t => rw [boundary_of_some C e, boundary_of_some C h, serve_silenced]

/-- Settles O47: two states equal when silenced each behave as that one silenced state does. -/
theorem debugModeChangesNoBehaviour : Obligations.DebugModeChangesNoBehaviour := by
  refine fun C s t h => ⟨fun i => ?_, ?_⟩
  · rw [← serve_silenced C s, h, serve_silenced]
  · rw [← boundary_silenced C s, h, boundary_silenced]

end Sys2Proof.Machine
end

section
/-! PROOFS of the exception family: R130, a core that always fails. The driver's first event fails and is reported, its second finds the
flag set, and nothing follows; each event comes within two boundaries (log 11). -/

namespace Sys2Proof.Machine

variable (C : CoreFns) {s : State}

theorem boundaries_add (m n : Nat) (s : State) : boundaries C (m + n) s = boundaries C n (boundaries C m s) := by
  induction m generalizing s with
  | zero => rw [Nat.zero_add, boundaries]
  | succ m ih => rw [Nat.succ_add, boundaries, ih, boundaries]

/-- R152: with no driver and nothing presented every boundary leaves the state as it is. -/
theorem boundaries_of_not_running (h : s.noRequest) (ht : s.tick = false) (hs : s.sched.running = false) (n : Nat) :
    boundaries C n s = s := by
  induction n with
  | zero => rfl
  | succ n ih => rw [boundaries, boundary_of_not_running C h ht hs, ih]

/-- R104, log 11: within two boundaries a running driver's own event is served, with no tick pending. -/
theorem boundaries_serve_driver_event (h : s.noRequest) (hs : s.sched.running = true) :
    ∃ k ≤ 2, ((s.withTick false).sched = .runPaced ∧ boundaries C k s = tickOp C (s.withTick false)) ∨
      ((s.withTick false).sched = .runFree ∧ boundaries C k s = fstepOp C (s.withTick false)) := by
  rcases (Sched.running_iff _).1 hs with hx | hx <;> cases ht : s.tick
  · refine ⟨2, by decide, .inl ⟨hx, ?_⟩⟩
    rw [State.withTick_of_tick ht]
    exact boundary_boundary_of_runPaced C h ht hx
  · exact ⟨1, by decide, .inl ⟨hx, boundary_of_tick C h ht⟩⟩
  · refine ⟨1, by decide, .inr ⟨hx, ?_⟩⟩
    rw [State.withTick_of_tick ht]
    exact boundary_of_runFree C h ht hx
  · refine ⟨2, by decide, .inr ⟨hx, ?_⟩⟩
    have hstray : tickOp C (s.withTick false) = s.withTick false := tickOp_of_not_runPaced C (by simp [hx])
    have hn : (s.withTick false).noRequest := h
    rw [boundaries, boundaries, boundaries, boundary_of_tick C h ht, hstray, boundary_of_runFree C hn rfl hx]

/-- R98, R99: where the halt predicate is false, a running driver executes one step within two boundaries. -/
theorem boundaries_step_of_running (h : s.noRequest) (hs : s.sched.running = true) (hh : haltPred C s = false) :
    ∃ k ≤ 2, boundaries C k s = cycle C (s.withTick false) := by
  have hh' : haltPred C (s.withTick false) = false := (haltPred_congr C (s := s.withTick false) (t := s) rfl rfl rfl rfl).trans hh
  obtain ⟨k, hk, ⟨hx, e⟩ | ⟨hx, e⟩⟩ := boundaries_serve_driver_event C h hs
  · exact ⟨k, hk, by rw [e, tickOp_of_runPaced C hx, hh']; rfl⟩
  · exact ⟨k, hk, by rw [e, fstepOp_of_runFree C hx, hh']; rfl⟩

/-- R91, R98, R99: where the halted flag is set, a running driver halts within two boundaries, changing nothing else. -/
theorem boundaries_halt_of_halted (h : s.noRequest) (hs : s.sched.running = true) (hf : s.core.halted = true) :
    ∃ k ≤ 2, ∃ t, boundaries C k s = t ∧ t.noRequest ∧ t.tick = false ∧ t.arch = { s.arch with sched := .halted } := by
  have hh : haltPred C (s.withTick false) = true := by rw [haltPred, State.withTick_core, hf, Bool.true_or]
  obtain ⟨k, hk, ⟨hx, e⟩ | ⟨hx, e⟩⟩ := boundaries_serve_driver_event C h hs
  · exact ⟨k, hk, _, e.trans ((tickOp_of_runPaced C hx).trans (if_pos hh)), h, rfl, rfl⟩
  · exact ⟨k, hk, _, e.trans ((fstepOp_of_runFree C hx).trans (if_pos hh)), h, rfl, rfl⟩

/-! The failures reported. -/

/-- How many failed steps the diagnostic stream reports. -/
def Arch.errorCount (a : Arch) : Nat := (a.diag.filter DiagRecord.isError).length

theorem errorCount_emit (s : State) (r : DiagRecord) :
    (s.emit r).arch.errorCount = s.arch.errorCount + (if r.isError then 1 else 0) := by
  simp only [Arch.errorCount, State.arch, State.emit, List.filter_append, List.length_append]
  cases h : r.isError <;> simp [h]

/-- R59: neither the logged disassembly nor what the core does on the bus reports a failure. -/
theorem errorCount_runBus_logUpcoming {α : Type} (p : BusProg α) (s : State) :
    (runBus p (logUpcoming C s)).2.arch.errorCount = s.arch.errorCount := by
  refine runBus_keeps (fun t => t.arch.errorCount = s.arch.errorCount) ?_ ?_ ?_ p _ ?_
  · intro t addr v ht
    obtain ⟨m, e⟩ := busWrite_frame t addr v
    rw [e]
    exact ht
  · intro t port ht
    rcases portRead_cases t port with ⟨-, e⟩ | ⟨-, e⟩ <;> rw [e]
    · exact ht
    · exact (errorCount_emit t _).trans ht
  · intro t port v ht
    rcases portWrite_cases t port v with ⟨-, e⟩ | ⟨-, e⟩ <;> rw [e]
    · exact ht
    · exact (errorCount_emit t _).trans ht
  · rcases logUpcoming_cases C s with ⟨-, e⟩ | ⟨-, e⟩ <;> rw [e]
    exact errorCount_emit s _

/-- R123: a step that fails leaves the core halted and reports one failure more. -/
theorem cycle_of_failing {info : Text} (h : (runBus (C.execute s.core) (logUpcoming C s)).1.status = .fault info) :
    (cycle C s).core.halted = true ∧ (cycle C s).arch.errorCount = s.arch.errorCount + 1 := by
  have harch := cycle_arch_of_fault (C := C) (s := s) rfl h
  refine ⟨congrArg (·.core.halted) harch, ?_⟩
  rw [harch, ← errorCount_runBus_logUpcoming C (C.execute s.core) s]
  exact errorCount_emit _ (.error info)

/-- Settles O41: one failing step, then the halt that the forced flag brings, each within two boundaries. -/
theorem alwaysFailingCoreIsReportedOnce : Obligations.AlwaysFailingCoreIsReportedOnce := by
  intro C s n hfail hnop h hs hf hn4
  have hh : haltPred C s = false := by rw [haltPred, hf, hnop, Bool.or_false]
  obtain ⟨k₁, hk₁, e₁⟩ := boundaries_step_of_running C h hs hh
  obtain ⟨info, hinfo⟩ := hfail s.core (logUpcoming C (s.withTick false))
  obtain ⟨hflag, hcount⟩ := cycle_of_failing C (s := s.withTick false) hinfo
  have hreq : (cycle C (s.withTick false)).noRequest := by
    obtain ⟨m, k, d, e, -⟩ := cycle_frame C (s.withTick false)
    rw [e]
    exact h
  have hrun : (cycle C (s.withTick false)).sched.running = true := by rw [cycle_sched]; exact hs
  obtain ⟨k₂, hk₂, t, e₂, htreq, httick, harch⟩ := boundaries_halt_of_halted C hreq hrun hflag
  have htrun : t.sched.running = false := congrArg (·.sched.running) harch
  have hsplit : n = k₁ + (k₂ + (n - k₁ - k₂)) := by omega
  have hend : boundaries C n s = t := by
    rw [hsplit, boundaries_add, e₁, boundaries_add, e₂, boundaries_of_not_running C htreq httick htrun]
  rw [hend]
  exact ⟨congrArg Arch.sched harch, (congrArg (·.core.halted) harch).trans hflag,
    (congrArg Arch.errorCount harch).trans hcount⟩

end Sys2Proof.Machine
end

section
/-! PROOFS of the reset family (70_reset_and_hazards.md): construction (R150), and a machine that no driver moves (R152). -/

namespace Sys2Proof.Machine

/-- R121: on a legal geometry too long a firmware is FirmwareTooLarge, whatever the configuration. -/
theorem construct_of_firmware_too_long {g : Geometry} {fw : List Byte} (hg : g.Legal) (hf : g.progCap < fw.length) (ioW : Nat)
    (c : CfgInput) : construct g ioW fw c = .fault .firmwareTooLarge := by
  have hg' : g.wellFormed = true := decide_eq_true hg
  have hf' : firmwareFits g fw = false := decide_eq_false (Nat.not_le.2 hf)
  simp [construct, hg', hf']

/-- R20: with a firmware that fits, a period that is not legal is refused. -/
theorem construct_of_period_not_legal {g : Geometry} {fw : List Byte} {c : CfgInput} (hg : g.Legal) (hf : fw.length ≤ g.progCap)
    (hp : c.periodLegal = false) (ioW : Nat) : construct g ioW fw c = .refused .clockSpeedOutOfRange := by
  have hg' : g.wellFormed = true := decide_eq_true hg
  have hf' : firmwareFits g fw = true := decide_eq_true hf
  simp [construct, hg', hf', hp]

theorem periodLegal_eq_false_of_lt_one {c : CfgInput} {n : Int} (hc : c.clockSpeed = some n) (hn : n < 1) :
    c.periodLegal = false := by
  have hout : ¬(1 ≤ n ∧ n < 2 ^ 32) := fun h => absurd h.1 (Int.not_le.2 hn)
  simp only [CfgInput.periodLegal, hc, decide_eq_false hout]

/-- R6, R57: the register holds a legal period itself, 10 ms where it was omitted. -/
theorem settleCfg_clockSpeed {c : CfgInput} (h : c.periodLegal = true) :
    ((settleCfg c).clockSpeed.toNat : Int) = c.clockSpeed.getD 10 := by
  obtain ⟨debug, interval, clockSpeed⟩ := c
  cases clockSpeed with
  | none => rfl
  | some n =>
    obtain ⟨hlow, hhigh⟩ : 1 ≤ n ∧ n < 2 ^ 32 := of_decide_eq_true h
    show ((BitVec.ofInt 32 n).toNat : Int) = n
    rw [BitVec.toNat_ofInt]
    omega

/-- R12, R150: every byte of the Program region is the firmware's right after construction, 0x00 beyond a short one. -/
theorem State.constructed_prog_read (g : Geometry) (ioW : Nat) (c : Cfg) (fw : List Byte) (i : Nat) :
    Memory.read (State.constructed g ioW c (Memory.ofBytes 0 fw)).prog i = fw.getD i 0x00#8 := by
  have hread := Memory.read_ofBytes fw 0 i
  rwa [Nat.zero_add] at hread

/-- Settles O50: the three outcomes of construction, and the fields that `State.constructed` sets. -/
theorem constructionLoadsAndInitialises : Obligations.ConstructionLoadsAndInitialises := by
  intro g ioW fw c hg
  refine ⟨fun hf => construct_of_firmware_too_long hg hf ioW c, fun hf n hc hn => ?_, fun hf hp => ?_⟩
  · exact construct_of_period_not_legal hg hf (periodLegal_eq_false_of_lt_one hc hn) ioW
  · exact ⟨_, construct_eq_next hg hf hp ioW, rfl, rfl, State.constructed_prog_read g ioW (settleCfg c) fw,
      State.constructed_work_read g ioW (settleCfg c) (Memory.ofBytes 0 fw), rfl, rfl, rfl, rfl, rfl, rfl, settleCfg_clockSpeed hp⟩

/-- R15: the two states without a driver. -/
theorem Sched.running_eq_false_iff (x : Sched) : x.running = false ↔ x = .idle ∨ x = .halted := by
  cases x <;> decide

/-- Settles O33: neither Idle nor Halted has a driver, so every step of a run leaves the state. -/
theorem noDriverNothingHappens : Obligations.NoDriverNothingHappens :=
  fun s h ht hs n => run_of_not_running h ht ((Sched.running_eq_false_iff s.sched).2 hs) n

end Sys2Proof.Machine
end

section
/-! PROOFS of the encoding family: the words that 95_test_vectors.md section 3.1 writes out, and the reading of a bare number (log 16). -/

namespace Sys2Proof

/-- Settles O4: each bus word is the concatenation of its fields, whatever the `value` bits of a read; the two codes are evaluated. -/
theorem wordsOfTheSpecDecode : Obligations.WordsOfTheSpecDecode :=
  ⟨decode_membusWord 0#1 0x2000#16 0x00#8,
    decode_membusWord 0#1 0xFFFF#16 0xFF#8,
    decode_membusWord 1#1 0x2000#16 0xAA#8,
    decode_iobusWord 0#1 0x0010#16 { width := 16, bits := 0x0000#16 },
    decode_iobusWord 1#1 0x0010#16 { width := 16, bits := 0x00FF#16 },
    rfl, rfl⟩

/-! A bare number (log 16): as a word of a format, and what is read where its width names one. -/

/-- R52 to R55: the word keeps those bits of the number for which the format has a line. -/
theorem Format.bits_transaction (ioW : Nat) (f : Format) (w : Nat) : (f.transaction ioW w).bits = w % 2 ^ f.width ioW := by
  cases f <;> exact BitVec.toNat_ofNat w _

theorem Format.transaction_onPorts (ioW : Nat) (f : Format) (w : Nat) : (f.transaction ioW w).onPorts ioW = true := by
  cases f with
  | membus => rfl
  | iobus => exact decide_eq_true rfl
  | hostcmd => rfl
  | event => rfl

theorem transactionOfWord_of_format {ioW nbits : Nat} {f : Format} (hf : formatOfBits ioW nbits = some f) (w : Nat) :
    transactionOfWord ioW nbits w =
      if w < 2 ^ f.width ioW then .ok (f.transaction ioW w) else .error (.bitAboveWord f) := by
  simp only [transactionOfWord, hf, Format.wordFits, decide_eq_true_iff]

/-- Settles O5: the format's width decides, and a number below the bound loses no bit; the table's port width is the default, 16. -/
theorem tableWordsWithStrayBitsAreRejected : Obligations.TableWordsWithStrayBitsAreRejected := by
  refine ⟨fun ioW nbits w f hf => ⟨fun hw => ⟨?_, ?_, f.transaction_onPorts ioW w⟩, fun hw => ?_⟩, fun _ _ => rfl⟩
  · rw [decodeWordAt, transactionOfWord_of_format hf, if_pos hw]
  · rw [f.bits_transaction, Nat.mod_eq_of_lt hw]
  · have herr := (transactionOfWord_of_format hf w).trans (if_neg (Nat.not_lt.2 hw))
    exact ⟨herr, by rw [decodeWordAt, herr]⟩

end Sys2Proof
end
